-- ==== Sys2Proof/Word.lean ====
section
/-! DEFINITION. Words, bytes, and the shapes of what the host can put on the bus (spec/30_encoding.md
rules R91 and R95). -/

namespace Sys2Proof

/-- A 32-bit quantity: a register, an address, a SampleWord (00 R10 `WORD_BITS`, `ADDR_BITS`). -/
abbrev Word := BitVec 32

/-- One byte of data memory. -/
abbrev Byte := BitVec 8

/-- The direction of a window transaction (30 R95 `kind`). -/
inductive BusKind where
  | read
  | write
deriving DecidableEq, Repr

/-- The width of a host access: 1, 2 or 4 bytes (30 R95, 20 R65). -/
inductive Width where
  | w1
  | w2
  | w4
deriving DecidableEq, Repr

/-- The number of bytes of an access. -/
def Width.bytes : Width → Nat
  | .w1 => 1
  | .w2 => 2
  | .w4 => 4

/-- A host transaction on the register window: the tuple of 30 R95. `wdata` counts for writes only. -/
structure BusTuple where
  kind : BusKind
  addr : Word
  width : Width
  wdata : Word
deriving DecidableEq, Repr

/-- The two things that have an encoding (30 R90): a command word and a bus transaction. -/
inductive Encoding where
  | cmdWord (w : Word)
  | bus (t : BusTuple)
deriving DecidableEq, Repr

end Sys2Proof
end

