-- ==== Sys2Proof/Config.lean ====
section
/-! DEFINITION. The parameters of the block (spec/00_scope.md rule R10), its fixed constants, and the
free values: what the environment chooses and no rule determines. -/

namespace Sys2Proof

/-- A stereo channel (44 R231). -/
inductive Channel where
  | left
  | right
deriving DecidableEq, Repr

/-- The parameters that 00 R10 leaves to the model's caller. They are an argument of the model: `State.par`
holds them, no step writes them, and a statement about every state is about every value of them
(notes/assumptions/5.md, DESIGN CHOICE). -/
structure Params where
  /-- `RXQ_DEPTH`: capacity of the receive queue in words, at least 1. -/
  rxqDepth : Nat
  /-- `NUM_SAU_UNITS`: how many units `CFG_UNIT` may select, at least 1. -/
  numSauUnits : Nat
  /-- `NUM_PINS`: how many pins a pin number may name, at least 3. -/
  numPins : Nat
  /-- `SAU_BASE`: byte address of the register window, a multiple of 0x40. -/
  sauBase : Word
  /-- `DATA_BASE`: start of data memory, a multiple of 4. -/
  dataBase : Word
  /-- `DATA_SIZE`: bytes of data memory, a multiple of 4. -/
  dataSize : Nat
  /-- `FIRST_CHANNEL`: the channel of the first word after a restart. -/
  firstChannel : Channel
  /-- `RECORD_CLEARS_RXQ`: whether RECORD empties the receive queue at K1. -/
  recordClearsRxq : Bool
  /-- `IRQ_MAX_DEFER`: most APP steps between a deliverable interrupt and `CH.ENTER`; `none` is unbounded. -/
  irqMaxDefer : Option Nat
  /-- `SAMPLE_LSB`: lowest bit of the 16-bit sample window. -/
  sampleLsb : Nat
deriving DecidableEq, Repr

/-- `MAX_COUNT` (00 R10): the largest legal sample count, 2^30 - 1. -/
def Config.maxCount : Nat := 2 ^ 30 - 1

/-- The example values of spec/95_test_vectors.md, with R10's own values for the parameters it gives one.
The instance `State.reset` describes (DESIGN CHOICE, notes/assumptions/5.md: unsafe for a claim about
`State.reset` alone; `State.resetOf` has any parameters). -/
def Config.exampleParams : Params where
  rxqDepth := 4
  numSauUnits := 2
  numPins := 30
  sauBase := 0x40000000#32
  dataBase := 0x20000000#32
  dataSize := 0x00040000
  firstChannel := .left
  recordClearsRxq := false
  irqMaxDefer := none
  sampleLsb := 15

/-- FREE VALUE. The microphone's word at the given draw (40 R127: every 32-bit value is possible). -/
opaque Config.micWord : Nat → Word

/-- FREE VALUE. The allocator's answer at the given draw (20 R70, U20); `none` is FAIL. -/
opaque Config.allocAnswer : Nat → Option Word

/-- FREE VALUE. Which of several enabled agents steps, at the given draw (00 R7). -/
opaque Config.scheduleChoice : Nat → Nat

/-- FREE VALUE. What the byte at an address holds before anything has written it (10 R33, 70 R282, U16). -/
opaque Config.powerUpByte : Nat → Byte

end Sys2Proof
end

