-- ==== Sys2Proof/Syntax.lean ====
section
/-! DEFINITION. The instructions: one constructor per row of spec/opcode_table.json. -/

namespace Sys2Proof

/-- The five commands (30 R92) and the nineteen legal register accesses (30 R96). -/
inductive Instr where
  /-- `INIT`, 43 R185. -/
  | init
  /-- `START`, 43 R188. -/
  | start
  /-- `STOP`, 43 R191. -/
  | stop
  /-- `GETBUF`, 43 R194; `b` is the `block` argument: `GETBUF.NB` or `GETBUF.B`. -/
  | getbuf (b : Bool)
  /-- `RECORD`, 43 R198. -/
  | record
  /-- `WR CFG_UNIT, v`, 44 R223. -/
  | wrCfgUnit (v : Word)
  /-- `RD CFG_UNIT`, 44 R224. -/
  | rdCfgUnit
  /-- `WR CFG_DPIN, v`, 44 R223. -/
  | wrCfgDpin (v : Word)
  /-- `RD CFG_DPIN`, 44 R224. -/
  | rdCfgDpin
  /-- `WR CFG_CPIN, v`, 44 R223. -/
  | wrCfgCpin (v : Word)
  /-- `RD CFG_CPIN`, 44 R224. -/
  | rdCfgCpin
  /-- `WR CFG_FREQ, v`, 44 R223. -/
  | wrCfgFreq (v : Word)
  /-- `RD CFG_FREQ`, 44 R224. -/
  | rdCfgFreq
  /-- `WR CFG_COUNT, v`, 44 R223. -/
  | wrCfgCount (v : Word)
  /-- `RD CFG_COUNT`, 44 R224. -/
  | rdCfgCount
  /-- `WR CMD, v`, 44 R225. -/
  | wrCmd (v : Word)
  /-- `RD STATUS`, 44 R226. -/
  | rdStatus
  /-- `RD RESULT`, 44 R227. -/
  | rdResult
  /-- `RD BUF0_ADDR`, 44 R227. -/
  | rdBuf0Addr
  /-- `RD BUF1_ADDR`, 44 R227. -/
  | rdBuf1Addr
  /-- `RD SWAPCNT`, 44 R227. -/
  | rdSwapcnt
  /-- `RD TE_WADDR`, 44 R227. -/
  | rdTeWaddr
  /-- `RD TE_REMAIN`, 44 R227. -/
  | rdTeRemain
  /-- `RD RXQ_LEVEL`, 44 R227. -/
  | rdRxqLevel
deriving DecidableEq, Repr

end Sys2Proof
end

