-- ==== Sys2Proof/WellFormed.lean ====
section
/-! DEFINITION. What is well formed: parameters (00 R10), command words (30 R91, R94), window
transactions (30 R95, R96), encodings and instructions. A predicate here says what the spec calls legal;
the decoder of Sys2Proof/Decode.lean is written apart from it. -/

namespace Sys2Proof

/-- 00 R10: the bounds and alignments the open parameters keep; data memory lies inside the address space
and apart from the window (20 R68); the sample window lies inside the word. -/
def Params.wf (p : Params) : Bool :=
  decide (1 ≤ p.rxqDepth) && decide (1 ≤ p.numSauUnits) && decide (3 ≤ p.numPins) &&
  decide (p.sauBase.toNat % 64 = 0) && decide (p.dataBase.toNat % 4 = 0) && decide (p.dataSize % 4 = 0) &&
  decide (p.dataBase.toNat + p.dataSize ≤ 2 ^ 32) &&
  decide (p.sauBase.toNat + 64 ≤ p.dataBase.toNat ∨ p.dataBase.toNat + p.dataSize ≤ p.sauBase.toNat) &&
  decide (p.sampleLsb + 16 ≤ 32)

/-- 30 R94: `op` is 1 to 5, bits [31:5] are 0, and `b = 1` only with `op = 4`. -/
def cmdWordWf (v : Word) : Bool :=
  decide (v.extractLsb' 5 27 = 0) &&
  decide (1 ≤ (v.extractLsb' 0 4).toNat ∧ (v.extractLsb' 0 4).toNat ≤ 5) &&
  (!v.getLsbD 4 || decide ((v.extractLsb' 0 4).toNat = 4))

/-- 30 R96: the registers a read may name, by index `offset[5:2]`. -/
def readableIndex (idx : Nat) : Bool :=
  decide (idx ≤ 4) || decide (6 ≤ idx ∧ idx ≤ 13)

/-- 30 R96: the registers a write may name, by index. -/
def writableIndex (idx : Nat) : Bool :=
  decide (idx ≤ 5)

/-- 30 R95, R96: the address is in the window at `base`, the access is 32 bits wide and aligned, and the
(kind, register) pair is legal. -/
def BusTuple.wf (base : Word) (t : BusTuple) : Bool :=
  decide ((t.addr - base).toNat < 64) && decide (t.width = .w4) && decide ((t.addr - base).toNat % 4 = 0) &&
  match t.kind with
  | .read => readableIndex ((t.addr - base).toNat / 4)
  | .write => writableIndex ((t.addr - base).toNat / 4)

/-- A command word is well formed by R94, a transaction by R95 and R96. -/
def Encoding.wf (base : Word) : Encoding → Bool
  | .cmdWord w => cmdWordWf w
  | .bus t => t.wf base

/-- Every instruction is well formed but a CMD write of an illegal command word, which faults (44 R225). -/
def Instr.wf : Instr → Bool
  | .wrCmd v => cmdWordWf v
  | _ => true

end Sys2Proof
end

