-- ==== Sys2Proof/Decode.lean ====
section
/-! DEFINITION. The decoder of the two encoded formats (spec/30_encoding.md), total and rejecting by name,
and after it the encoder, written from the same tables. -/

namespace Sys2Proof

/-- Why an encoding is no instruction. -/
inductive Reject where
  /-- 30 R94: reserved `op`, a bit of [31:5], or `b = 1` outside GETBUF. Cause ILLEGAL_CMD. -/
  | illegalCommand
  /-- 44 R222: width 1 or 2. Cause BAD_ACCESS. -/
  | badWidth
  /-- 44 R222: the offset is no multiple of 4. Cause BAD_ACCESS. -/
  | misaligned
  /-- 44 R222: read of `CMD`. Cause BAD_ACCESS. -/
  | readOfWriteOnly
  /-- 44 R222: write of a read-only register. Cause BAD_ACCESS. -/
  | writeOfReadOnly
  /-- 44 R222: offset 0x38 or 0x3C. Cause BAD_ACCESS. -/
  | reservedOffset
  /-- Not a transaction on the window at all (30 R95): the platform's, not the block's. -/
  | outsideWindow
deriving DecidableEq, Repr

/-- Format CMD (30 R91, R92, R94). -/
def decodeCmd (v : Word) : Except Reject Instr :=
  if v.extractLsb' 5 27 = 0 then
    match (v.extractLsb' 0 4).toNat, v.getLsbD 4 with
    | 1, false => .ok .init
    | 2, false => .ok .start
    | 3, false => .ok .stop
    | 4, b => .ok (.getbuf b)
    | 5, false => .ok .record
    | _, _ => .error .illegalCommand
  else .error .illegalCommand

/-- Format REGR by register index (30 R96, column R). -/
def decodeRead (idx : Nat) : Except Reject Instr :=
  match idx with
  | 0 => .ok .rdCfgUnit
  | 1 => .ok .rdCfgDpin
  | 2 => .ok .rdCfgCpin
  | 3 => .ok .rdCfgFreq
  | 4 => .ok .rdCfgCount
  | 5 => .error .readOfWriteOnly
  | 6 => .ok .rdStatus
  | 7 => .ok .rdResult
  | 8 => .ok .rdBuf0Addr
  | 9 => .ok .rdBuf1Addr
  | 10 => .ok .rdSwapcnt
  | 11 => .ok .rdTeWaddr
  | 12 => .ok .rdTeRemain
  | 13 => .ok .rdRxqLevel
  | _ => .error .reservedOffset

/-- Format REGW by register index (30 R96, column W). -/
def decodeWrite (idx : Nat) (v : Word) : Except Reject Instr :=
  match idx with
  | 0 => .ok (.wrCfgUnit v)
  | 1 => .ok (.wrCfgDpin v)
  | 2 => .ok (.wrCfgCpin v)
  | 3 => .ok (.wrCfgFreq v)
  | 4 => .ok (.wrCfgCount v)
  | 5 => .ok (.wrCmd v)
  | 6 | 7 | 8 | 9 | 10 | 11 | 12 | 13 => .error .writeOfReadOnly
  | _ => .error .reservedOffset

/-- 44 R221: width and alignment first, then the pair (60 R245). -/
def decodeBus (base : Word) (t : BusTuple) : Except Reject Instr :=
  let offset := (t.addr - base).toNat
  if 64 ≤ offset then .error .outsideWindow
  else if t.width ≠ .w4 then .error .badWidth
  else if offset % 4 ≠ 0 then .error .misaligned
  else
    match t.kind with
    | .read => decodeRead (offset / 4)
    | .write => decodeWrite (offset / 4) t.wdata

/-- The decoder: any encoding is an instruction or is rejected by name. `base` is `SAU_BASE`. -/
def decode (base : Word) : Encoding → Except Reject Instr
  | .cmdWord w => decodeCmd w
  | .bus t => decodeBus base t

/-- The instruction whose bits are `w`, numbered as spec/opcode_table.json numbers them. A row of 32 bits is
a command word. A shorter row gives the window offset in bits [5:0]; it has no bit for the direction, so
the model numbers it as bit 6 (1 = write) and the write data from bit 8 on, and with bit 6 clear the
offset of `CMD`, whose one row is a write, is a write and every other offset a read
(DESIGN CHOICE, notes/assumptions/9.md). -/
def tableEncoding (base : Word) (nbits w : Nat) : Encoding :=
  if nbits = 32 then .cmdWord (BitVec.ofNat 32 w)
  else .bus
    { kind := if w / 64 % 2 = 1 ∨ w % 64 = 0x14 then .write else .read
      addr := base + BitVec.ofNat 32 (w % 64)
      width := .w4
      wdata := BitVec.ofNat 32 (w / 256) }

/-- The decoder on a word of the opcode table. The window's place does not matter: the table gives offsets. -/
def decodeTableWord (nbits w : Nat) : Option Instr :=
  match decode 0#32 (tableEncoding 0#32 nbits w) with
  | .ok i => some i
  | .error _ => none

/-! The encoder, written from 30 R91, R92 and R96. -/

/-- The command word of an operation `op` with `b` (30 R91). -/
def packCmd (op : BitVec 4) (b : Bool) : Word :=
  0#27 ++ BitVec.ofBool b ++ op

/-- The BUS tuple of a 32-bit read at a window offset (30 R98). -/
def readAt (base offset : Word) : Encoding :=
  .bus { kind := .read, addr := base + offset, width := .w4, wdata := 0#32 }

/-- The BUS tuple of a 32-bit write at a window offset (30 R98). -/
def writeAt (base offset v : Word) : Encoding :=
  .bus { kind := .write, addr := base + offset, width := .w4, wdata := v }

/-- The encoding of every instruction. A read carries no write data; the encoder writes 0 there. -/
def encode (base : Word) : Instr → Encoding
  | .init => .cmdWord (packCmd 1#4 false)
  | .start => .cmdWord (packCmd 2#4 false)
  | .stop => .cmdWord (packCmd 3#4 false)
  | .getbuf b => .cmdWord (packCmd 4#4 b)
  | .record => .cmdWord (packCmd 5#4 false)
  | .wrCfgUnit v => writeAt base 0x00#32 v
  | .rdCfgUnit => readAt base 0x00#32
  | .wrCfgDpin v => writeAt base 0x04#32 v
  | .rdCfgDpin => readAt base 0x04#32
  | .wrCfgCpin v => writeAt base 0x08#32 v
  | .rdCfgCpin => readAt base 0x08#32
  | .wrCfgFreq v => writeAt base 0x0C#32 v
  | .rdCfgFreq => readAt base 0x0C#32
  | .wrCfgCount v => writeAt base 0x10#32 v
  | .rdCfgCount => readAt base 0x10#32
  | .wrCmd v => writeAt base 0x14#32 v
  | .rdStatus => readAt base 0x18#32
  | .rdResult => readAt base 0x1C#32
  | .rdBuf0Addr => readAt base 0x20#32
  | .rdBuf1Addr => readAt base 0x24#32
  | .rdSwapcnt => readAt base 0x28#32
  | .rdTeWaddr => readAt base 0x2C#32
  | .rdTeRemain => readAt base 0x30#32
  | .rdRxqLevel => readAt base 0x34#32

end Sys2Proof
end

