-- ==== Sys2Proof/Machine/State.lean ====
section
/-! DEFINITION. The state of the block (spec/10_state.md rule R20), what the environment brings, the
reasons a step can stop, and the state after reset. Plain data throughout. -/

namespace Sys2Proof.Machine

/-- `sess` (10 R23). -/
inductive Sess where
  | uninit
  | ready
  | active
deriving DecidableEq, Repr

/-- `err` (10 R31): 0 and 1; codes 2 to 15 are never produced. -/
inductive Err where
  | ok
  | outOfMemory
deriving DecidableEq, Repr

/-- `fault_cause` (60 R244): the codes 0x00 to 0x0A; the others are never produced. -/
inductive Cause where
  | none
  | pvPin
  | pvRecordActive
  | pvStopInactive
  | pvDoubleStart
  | pvNotInit
  | pvReinit
  | pvBadParam
  | illegalCmd
  | badAccess
  | teMisuse
deriving DecidableEq, Repr

/-- `cmd_op` (10 R20): NONE or the opcode of the command in progress. -/
inductive CmdOp where
  | none
  | init
  | start
  | stop
  | getbuf
  | record
deriving DecidableEq, Repr

/-- `hpc` (10 R26): 0 idle, 1 after `CH.ENTER`, 2 after `CH.PUBLISH`, 3 after `CH.RETARGET`. -/
inductive Hpc where
  | idle
  | entered
  | published
  | retargeted
deriving DecidableEq, Repr

/-- The staging registers `CFG_*` (10 R21). -/
structure Stage where
  unit : Word
  dpin : Word
  cpin : Word
  freq : Word
  count : Word
deriving DecidableEq, Repr

/-- The latched configuration `cfg` (10 R22). -/
structure Latched where
  unit : Word
  dpin : Word
  cpin : Word
  wspin : Word
  freq : Word
  n : Word
deriving DecidableEq, Repr

/-- The session: `sess`, `buf[0]`, `buf[1]`, `active` (10 R23 to R25). -/
structure Session where
  sess : Sess
  buf0 : Word
  buf1 : Word
  active : Bool
deriving DecidableEq, Repr

/-- What commands and swaps report to the host: `swapcnt`, `result`, `err` (10 R30, R31). -/
structure Report where
  swapcnt : Word
  result : Word
  err : Err
deriving DecidableEq, Repr

/-- `fault` and `fault_cause` (10 R32). -/
structure FaultRecord where
  fault : Bool
  cause : Cause
deriving DecidableEq, Repr

/-- The SAU and its receive queue, head first (10 R26 (a), R27). -/
structure Sau where
  en : Bool
  phase : Bool
  rxq : List Word
  rxovf : Bool
deriving DecidableEq, Repr

/-- The Transfer Engine (10 R28). -/
structure Te where
  busy : Bool
  waddr : Word
  remain : Word
  reload : Word
deriving DecidableEq, Repr

/-- The completion interrupt (10 R29). -/
structure Irq where
  pend : Bool
  en : Bool
deriving DecidableEq, Repr

/-- The Completion Handler's position (10 R26 (b)). -/
structure Handler where
  inHandler : Bool
  hpc : Hpc
  next : Bool
deriving DecidableEq, Repr

/-- The command in progress (10 R26 (c)). `cpc` is the number of its next micro-step in its rule, from 0. -/
structure Command where
  op : CmdOp
  cpc : Word
  b : Bool
  gbA0 : Bool
  recK : Word
deriving DecidableEq, Repr

/-- A region the allocator has handed out (10 R34 `live`). -/
structure Region where
  base : Word
  size : Nat
deriving DecidableEq, Repr

/-- Data memory `M` (10 R33): (address, byte), addresses strictly rising. A byte that is not listed has
never been written and has no value. -/
abbrev Memory := List Host.Cell

/-- One operation of the host program. A command word stands for its write to `CMD` (30 R99). -/
inductive HostOp where
  /-- A transaction on the register window (30 R95). -/
  | bus (t : BusTuple)
  /-- A line `INIT`, `START`, ... of a host program, by its command word (30 R99). -/
  | cmd (w : Word)
  /-- `LD` on data memory, 8, 16 or 32 bits (20 R65, 44 R228). -/
  | load (addr : Word) (width : Width)
  /-- `ST` on data memory (20 R65, 44 R228). -/
  | store (addr : Word) (width : Width) (v : Word)
deriving DecidableEq, Repr

/-- Whose turn it is (00 R6, R7), or the reset input being asserted (70 R280). -/
inductive Turn where
  | app
  | irq
  | sau
  | te
  | reset
deriving DecidableEq, Repr

/-- The environment (00 R6 ENV) and the host, as data: what they will do next, as far as it is decided. The
model's own fields but for `mic` and `micI` (10 R34). -/
structure Env where
  /-- The turns to come; with none left the choice among the enabled agents is free (log 2). -/
  sched : List Turn
  /-- The host's operations to come (44 R220). -/
  hostOps : List HostOp
  /-- The allocator's answers to come, `none` for FAIL; with none left the answer is free (log 4). -/
  allocs : List (Option Word)
  /-- `mic`: the words to come; with none left the word is free (log 3). -/
  mic : List Word
  /-- `mic_i`: words the SAU has consumed. -/
  micI : Nat
  /-- Free values drawn so far. -/
  drawn : Nat
  /-- APP steps taken since the interrupt became deliverable (00 R10 `IRQ_MAX_DEFER`, log 11). -/
  irqDefer : Nat
  /-- The value the last host read returned (log 1). -/
  hostRd : Word
deriving DecidableEq, Repr

/-- The machine: every element of 10 R20, with the parameters and the environment. -/
structure State where
  par : Params
  stage : Stage
  cfg : Latched
  ses : Session
  rep : Report
  flt : FaultRecord
  sau : Sau
  te : Te
  irq : Irq
  ch : Handler
  cmd : Command
  mem : Memory
  live : List Region
  env : Env
deriving DecidableEq, Repr

/-- Why a run stops where the spec gives no further behaviour. -/
inductive Fault where
  /-- An agent with an enabled step, or the host with an operation other than `RD STATUS`, would step after
  `fault = 1`; raised by every host operation, command micro-step and autonomous step (60 R243, 93 U18: no
  further behaviour is assigned). Safe. -/
  | afterFault
  /-- The command in progress has no micro-step of this number; raised by the five commands in states no
  run reaches. Safe. -/
  | noMicroStep
  /-- The block would access data memory misaligned or outside it; raised by INIT's zero fill, `TE.COPY` and
  RECORD in states no run reaches (20 R64, R66: it cannot happen). Safe. -/
  | dataMemory
deriving DecidableEq, Repr

/-- Why a step has no meaning in the model. -/
inductive Refusal where
  /-- An instruction without a meaning yet; raised by exec's refused arms only. Safe. -/
  | notModelled (mnemonic : String)
  /-- APP would step while the handler runs (00 R8, 44 R220: it takes no step); raised by the host's
  operations and the commands when called in such a state, never by `step`. Safe. -/
  | appHeld
  /-- The host would act while another command is in progress (43 R180, 93 U2: cannot be expressed); raised
  as `appHeld` is. Safe. -/
  | hostBlocked
  /-- A bus address outside the register window (93 U17: it belongs to the platform); raised by the issue of
  a host transaction. Safe. -/
  | outsideWindow
  /-- A host access to data memory whose address is no multiple of its width (20 R64, 93 U17); raised by
  `hostLoad` and `hostStore`. Safe. -/
  | hostMisaligned
  /-- A host access to memory outside both buffers (20 R66, 93 U17); raised by `hostLoad` and `hostStore`.
  Safe. -/
  | hostOutsideBuffers
deriving DecidableEq, Repr

/-- The outcome of a step. -/
abbrev Out := Host.Outcome State Fault Refusal

/-! Updates of one component; their small lemmas are in Sys2Proof/Laws/State.lean. -/

def State.setStage (s : State) (x : Stage) : State := { s with stage := x }
def State.setCfg (s : State) (x : Latched) : State := { s with cfg := x }
def State.setSes (s : State) (x : Session) : State := { s with ses := x }
def State.setRep (s : State) (x : Report) : State := { s with rep := x }
def State.setFlt (s : State) (x : FaultRecord) : State := { s with flt := x }
def State.setSau (s : State) (x : Sau) : State := { s with sau := x }
def State.setTe (s : State) (x : Te) : State := { s with te := x }
def State.setIrq (s : State) (x : Irq) : State := { s with irq := x }
def State.setCh (s : State) (x : Handler) : State := { s with ch := x }
def State.setCmd (s : State) (x : Command) : State := { s with cmd := x }
def State.setMem (s : State) (x : Memory) : State := { s with mem := x }
def State.setLive (s : State) (x : List Region) : State := { s with live := x }
def State.setEnv (s : State) (x : Env) : State := { s with env := x }

/-- `buf[i]` (10 R24). -/
def Session.buf (x : Session) (i : Bool) : Word := if i then x.buf1 else x.buf0

/-- The state right after power-up reset of the instance with parameters `p` (10 R50, 70 R281): every
element 0, empty, UNINIT or NONE; memory lists nothing (log 6); the environment has decided nothing. -/
def State.resetOf (p : Params) : State where
  par := p
  stage := { unit := 0#32, dpin := 0#32, cpin := 0#32, freq := 0#32, count := 0#32 }
  cfg := { unit := 0#32, dpin := 0#32, cpin := 0#32, wspin := 0#32, freq := 0#32, n := 0#32 }
  ses := { sess := .uninit, buf0 := 0#32, buf1 := 0#32, active := false }
  rep := { swapcnt := 0#32, result := 0#32, err := .ok }
  flt := { fault := false, cause := .none }
  sau := { en := false, phase := false, rxq := [], rxovf := false }
  te := { busy := false, waddr := 0#32, remain := 0#32, reload := 0#32 }
  irq := { pend := false, en := false }
  ch := { inHandler := false, hpc := .idle, next := false }
  cmd := { op := .none, cpc := 0#32, b := false, gbA0 := false, recK := 0#32 }
  mem := []
  live := []
  env :=
    { sched := [], hostOps := [], allocs := [], mic := [], micI := 0, drawn := 0, irqDefer := 0
      hostRd := 0#32 }

/-- The state right after reset of the instance whose parameters spec/95_test_vectors.md uses (log 5). -/
def State.reset : State := State.resetOf Config.exampleParams

end Sys2Proof.Machine
end

