-- ==== Sys2Proof/Machine/Ops.lean ====
section
/-! DEFINITION. The shared operations: data memory (spec/20_memory.md), the allocator, what the
environment draws, the end of a command, taking a fault, interrupt entry and return, the reset event. -/

namespace Sys2Proof.Machine

/-! ## Data memory -/

/-- The canonical form: addresses strictly rising. An unlisted byte has no value, so no entry can be equal to
what an unlisted address holds. -/
def Memory.wf : Memory → Bool
  | [] => true
  | [_] => true
  | c :: d :: m => decide (c.1 < d.1) && Memory.wf (d :: m)

/-- What has been written at an address; `none` where nothing has. -/
def Memory.read? : Memory → Nat → Option Byte
  | [], _ => none
  | c :: m, a => if a = c.1 then some c.2 else Memory.read? m a

/-- Store one byte, keeping the form. -/
def Memory.write : Memory → Nat → Byte → Memory
  | [], a, b => [(a, b)]
  | c :: m, a, b =>
    if a < c.1 then (a, b) :: c :: m
    else if a = c.1 then (a, b) :: m
    else c :: Memory.write m a b

/-- A byte as a read sees it: what was written, else the free power-up value (10 R33, 93 U16). -/
def Memory.byte (m : Memory) (a : Nat) : Byte :=
  (m.read? a).getD (Config.powerUpByte a)

/-- Assemble `n` bytes from address `a`, the lowest address least significant (20 R61). -/
def Memory.load (m : Memory) (a : Nat) : Nat → Word
  | 0 => 0#32
  | n + 1 => (m.byte a).setWidth 32 ||| (Memory.load m (a + 1) n <<< 8)

/-- Store the low `n` bytes of `v` from address `a` on, least significant first (20 R61, R63). -/
def Memory.store (m : Memory) (a : Nat) (v : Word) : Nat → Memory
  | 0 => m
  | n + 1 => Memory.store (m.write a (v.setWidth 8)) (a + 1) (v >>> 8) n

/-- What `MemRead` and `MemWrite` require (20 R62): aligned to `n` and inside data memory. -/
def accessOk (p : Params) (a : Word) (n : Nat) : Bool :=
  decide (a.toNat % n = 0) && decide (p.dataBase.toNat ≤ a.toNat) &&
  decide (a.toNat + n ≤ p.dataBase.toNat + p.dataSize)

/-- `MemRead(addr, n)` (20 R62). -/
def memRead (p : Params) (m : Memory) (a : Word) (w : Width) : Option Word :=
  if accessOk p a w.bytes then some (m.load a.toNat w.bytes) else none

/-- `MemWrite(addr, n, v)` (20 R63). -/
def memWrite (p : Params) (m : Memory) (a : Word) (w : Width) (v : Word) : Option Memory :=
  if accessOk p a w.bytes then some (m.store a.toNat v w.bytes) else none

/-- The address of word `k` of the buffer at `a` (20 R69). -/
def wordAddr (a : Word) (k : Nat) : Word := a + BitVec.ofNat 32 (4 * k)

/-- INIT's zero fill of words 0 to n - 1 of both buffers (43 R185 I3). -/
def zeroFill (p : Params) (a0 a1 : Word) : Nat → Memory → Option Memory
  | 0, m => some m
  | n + 1, m =>
    match zeroFill p a0 a1 n m with
    | none => none
    | some m' =>
      match memWrite p m' (wordAddr a0 n) .w4 0#32 with
      | none => none
      | some m'' => memWrite p m'' (wordAddr a1 n) .w4 0#32

/-! ## What the environment draws -/

/-- `draw_mic()` (40 R127): the next word of the stream, and the state after. -/
def drawMic (s : State) : Word × State :=
  match s.env.mic with
  | w :: ws => (w, s.setEnv { s.env with mic := ws, micI := s.env.micI + 1 })
  | [] =>
    (Config.micWord s.env.drawn,
      s.setEnv { s.env with micI := s.env.micI + 1, drawn := s.env.drawn + 1 })

/-- The environment's next answer to an allocation request. -/
def drawAnswer (s : State) : Option Word × State :=
  match s.env.allocs with
  | a :: as => (a, s.setEnv { s.env with allocs := as })
  | [] => (Config.allocAnswer s.env.drawn, s.setEnv { s.env with drawn := s.env.drawn + 1 })

/-- Two byte ranges share no byte. -/
def disjointRanges (a n b k : Nat) : Bool := decide (a + n ≤ b) || decide (b + k ≤ a)

/-- The answers 20 R70 allows: a multiple of 4, inside data memory without wrapping, apart from every live
region. -/
def allocOk (p : Params) (live : List Region) (nbytes : Nat) (a : Word) : Bool :=
  decide (a.toNat % 4 = 0) && decide (p.dataBase.toNat ≤ a.toNat) &&
  decide (a.toNat + nbytes ≤ p.dataBase.toNat + p.dataSize) && decide (a.toNat + nbytes ≤ 2 ^ 32) &&
  live.all fun r => disjointRanges a.toNat nbytes r.base.toNat r.size

/-- `Alloc(nbytes)` (20 R70): `none` is FAIL. An answer R70 does not allow counts as FAIL, which it always
allows (log 4). -/
def alloc (nbytes : Nat) (s : State) : Option Word × State :=
  match (drawAnswer s).1 with
  | none => (none, (drawAnswer s).2)
  | some a =>
    if allocOk s.par s.live nbytes a then
      (some a, (drawAnswer s).2.setLive ({ base := a, size := nbytes } :: s.live))
    else (none, (drawAnswer s).2)

/-- `Free(a)` (20 R70). -/
def free (a : Word) (s : State) : State :=
  s.setLive (s.live.filter fun r => r.base ≠ a)

/-! ## Commands begin and end -/

/-- A command starts (43 R180). -/
def startCommand (op : CmdOp) (b : Bool) (s : State) : State :=
  s.setCmd { s.cmd with op := op, b := b, cpc := 0#32 }

/-- The next micro-step is number `k`. -/
def goTo (k : Nat) (s : State) : State :=
  s.setCmd { s.cmd with cpc := BitVec.ofNat 32 k }

/-- `done` and `return_err` (43 R182). -/
def endCommand (e : Err) (s : State) : State :=
  (s.setRep { s.rep with err := e }).setCmd { s.cmd with op := .none, cpc := 0#32 }

/-! ## Exceptions -/

/-- The fault record after `fault(cause)` (60 R243): sticky, the first cause kept. -/
def recordFault (c : Cause) (f : FaultRecord) : FaultRecord :=
  match f.fault with
  | true => f
  | false => { fault := true, cause := c }

/-- `fault(cause)` (60 R243): the record, and the end of the command. It is no trap (60 R246). -/
def takeFault (c : Cause) (s : State) : State :=
  (s.setFlt (recordFault c s.flt)).setCmd { s.cmd with op := .none, cpc := 0#32 }

/-- Interrupt entry (60 R253): saves nothing, changes the handler's position only. -/
def enterHandler (s : State) : State :=
  s.setCh { inHandler := true, hpc := .entered, next := !s.ses.active }

/-- Interrupt return (60 R254): nothing is restored; APP may step again. -/
def leaveHandler (s : State) : State :=
  s.setCh { s.ch with inHandler := false, hpc := .idle }

/-- The reset event (70 R280 to R282): every element to its reset value; data memory keeps its bytes. What
the environment and the host still have in hand is not the block's and stays. -/
def assertReset (s : State) : State :=
  { State.resetOf s.par with
    mem := s.mem
    env := { s.env with micI := 0, irqDefer := 0 } }

end Sys2Proof.Machine
end

