-- ==== Sys2Proof/Machine/Flags.lean ====
section
/-! DEFINITION. The flags: their codes in `STATUS`, its composition (spec/10_state.md rule R41), the
data-ready signal, the saturating count, and when the interrupt can be taken. -/

namespace Sys2Proof.Machine

/-- `sess` as `STATUS[1:0]` shows it (10 R41). -/
def Sess.code : Sess → BitVec 2
  | .uninit => 0#2
  | .ready => 1#2
  | .active => 2#2

/-- `err` as `STATUS[15:12]` shows it (10 R31). -/
def Err.code : Err → BitVec 4
  | .ok => 0#4
  | .outOfMemory => 1#4

/-- The cause codes (60 R244). -/
def Cause.code : Cause → BitVec 8
  | .none => 0x00#8
  | .pvPin => 0x01#8
  | .pvRecordActive => 0x02#8
  | .pvStopInactive => 0x03#8
  | .pvDoubleStart => 0x04#8
  | .pvNotInit => 0x05#8
  | .pvReinit => 0x06#8
  | .pvBadParam => 0x07#8
  | .illegalCmd => 0x08#8
  | .badAccess => 0x09#8
  | .teMisuse => 0x0A#8

/-- `STATUS` (10 R41, 44 R226), assembled at the moment of the read. -/
def statusWord (s : State) : Word :=
  0#8 ++ s.flt.cause.code ++ s.rep.err.code ++ 0#3 ++ BitVec.ofBool s.flt.fault ++
  BitVec.ofBool s.sau.rxovf ++ BitVec.ofBool s.irq.en ++ BitVec.ofBool s.irq.pend ++
  BitVec.ofBool s.te.busy ++ BitVec.ofBool s.sau.en ++ BitVec.ofBool s.ses.active ++ s.ses.sess.code

/-- `dreq`, the data-ready signal (40 R125). -/
def dreq (s : State) : Bool := !s.sau.rxq.isEmpty

/-- `min(swapcnt + 1, 0xFFFFFFFF)` (10 R30, 42 R162). -/
def satSucc (w : Word) : Word := if w = 0xFFFFFFFF#32 then w else w + 1#32

/-- The interrupt is pending and enabled (60 R251). -/
def irqLine (s : State) : Bool := s.irq.pend && s.irq.en

end Sys2Proof.Machine
end

