-- ==== Sys2Proof/Machine/Operands.lean ====
section
/-! DEFINITION. The operand forms: which command word is which command, the registers a host read
returns, the buffer addresses a host access may name, and the gate every host operation passes. -/

namespace Sys2Proof.Machine

/-- The opcode a command instruction puts in `cmd_op`, and its `b` (30 R92); `none` for a register access. -/
def commandOf : Instr → Option (CmdOp × Bool)
  | .init => some (.init, false)
  | .start => some (.start, false)
  | .stop => some (.stop, false)
  | .getbuf b => some (.getbuf, b)
  | .record => some (.record, false)
  | _ => none

/-- The command in progress as an instruction (43 R180). -/
def inProgress (c : Command) : Option Instr :=
  match c.op with
  | .none => none
  | .init => some .init
  | .start => some .start
  | .stop => some .stop
  | .getbuf => some (.getbuf c.b)
  | .record => some .record

/-- `RXQ_LEVEL` (44 R227). -/
def rxqLevel (s : State) : Word := BitVec.ofNat 32 s.sau.rxq.length

/-- The byte range of a buffer (10 R24). -/
def inBuffer (s : State) (i : Bool) (a : Word) (n : Nat) : Bool :=
  decide ((s.ses.buf i).toNat ≤ a.toNat) && decide (a.toNat + n ≤ (s.ses.buf i).toNat + 4 * s.cfg.n.toNat)

/-- A host access lies inside one of the two buffers of a session (20 R66, 44 R228). While `sess = UNINIT`
there is no buffer (10 R24). -/
def inBuffers (s : State) (a : Word) (n : Nat) : Bool :=
  decide (s.ses.sess ≠ .uninit) && (inBuffer s false a n || inBuffer s true a n)

/-- When the host may act (44 R220): no fault (60 R243), the handler not running, no command in progress. -/
def hostGate (s : State) (k : State → Out) : Out :=
  if s.flt.fault then .fault .afterFault
  else if s.ch.inHandler then .refused .appHeld
  else if s.cmd.op ≠ .none then .refused .hostBlocked
  else k s

/-- A host read returns `v` and changes nothing else (44 R224, R227). -/
def returnToHost (v : Word) (s : State) : State :=
  s.setEnv { s.env with hostRd := v }

end Sys2Proof.Machine
end

