-- ==== Sys2Proof/Machine/Sau.lean ====
section
/-! DEFINITION. The SAU (spec/40_sau.md): its unit primitives and its autonomous step. -/

namespace Sys2Proof.Machine

/-- `SAU_CONFIG(unit, dpin, cpin, freq)` (40 R120). The word-select pin is always `cpin + 1`. -/
def sauConfig (unit dpin cpin freq : Word) (s : State) : State :=
  s.setCfg { s.cfg with unit := unit, dpin := dpin, cpin := cpin, wspin := cpin + 1#32, freq := freq }

/-- `SAU_CLEAR` (40 R121). -/
def sauClear (s : State) : State := s.setSau { s.sau with rxq := [] }

/-- `SAU_RESTART` (40 R122). -/
def sauRestart (s : State) : State := s.setSau { s.sau with phase := false }

/-- `SAU_ENABLE` (40 R123). -/
def sauEnable (s : State) : State := s.setSau { s.sau with en := true }

/-- `SAU_DISABLE` (40 R124). -/
def sauDisable (s : State) : State := s.setSau { s.sau with en := false }

/-- `SAU_POP` (40 R125): the head word and the state after; `none` on an empty queue, on which neither caller
is enabled. -/
def sauPop (s : State) : Option (Word × State) :=
  match s.sau.rxq with
  | [] => none
  | w :: ws => some (w, s.setSau { s.sau with rxq := ws })

/-- The push of a completed word to a queue of `depth` words (40 R126): discard and flag when it is full. -/
def sauPush (depth : Nat) (w : Word) (q : Sau) : Sau :=
  if q.rxq.length < depth then { q with rxq := q.rxq ++ [w] } else { q with rxovf := true }

/-- The next word begins the other half of the stereo frame (40 R126). -/
def flipPhase (q : Sau) : Sau := { q with phase := !q.phase }

/-- `SAU.WORD` (40 R126): one completed shift cycle. -/
def sauWord (s : State) : Out :=
  if s.flt.fault then .fault .afterFault
  else .next ((drawMic s).2.setSau (flipPhase (sauPush s.par.rxqDepth (drawMic s).1 s.sau)))

end Sys2Proof.Machine
end

