-- ==== Sys2Proof/Machine/TransferEngine.lean ====
section
/-! DEFINITION. The Transfer Engine (spec/41_transfer_engine.md): its unit primitives and its autonomous
step. -/

namespace Sys2Proof.Machine

/-- `TE_CLAIM` (41 R141). -/
def teClaim (s : State) : State :=
  s.setTe { busy := false, waddr := 0#32, remain := 0#32, reload := 0#32 }

/-- `TE_ARM(addr, n)` (41 R142); `none` is its fault TE_MISUSE on a busy engine. -/
def teArm (addr n : Word) (s : State) : Option State :=
  if s.te.busy then none
  else some (s.setTe { busy := true, waddr := addr, remain := n, reload := n })

/-- `TE_RETRIGGER(addr)` (41 R143); `none` is its fault TE_MISUSE on a busy engine. -/
def teRetrigger (addr : Word) (s : State) : Option State :=
  if s.te.busy then none
  else some (s.setTe { s.te with busy := true, waddr := addr, remain := s.te.reload })

/-- `TE_ABORT` (41 R144): address and counts stay, no event is raised. -/
def teAbort (s : State) : State := s.setTe { s.te with busy := false }

/-- `TE_ACK` (41 R147): clears whatever is pending. -/
def teAck (s : State) : State := s.setIrq { s.irq with pend := false }

/-- The word being copied is the last of its transfer: the count reaches 0 (41 R145). -/
def teLast (t : Te) : Bool := t.remain - 1#32 == 0#32

/-- The engine's registers after one word (41 R145): the address modulo 2^32, the count one less, idle after
the last word. -/
def teAfterWord (t : Te) : Te :=
  { t with busy := t.busy && !teLast t, waddr := t.waddr + 4#32, remain := t.remain - 1#32 }

/-- The registers advance, and the last word raises the completion event (41 R145). -/
def teAdvance (s : State) : State :=
  (s.setTe (teAfterWord s.te)).setIrq { s.irq with pend := s.irq.pend || teLast s.te }

/-- `TE.COPY` is enabled (41 R145). -/
def teEnabled (s : State) : Bool := s.te.busy && dreq s

/-- `TE.COPY` (41 R145): pop, write, advance, in one step; the write comes before the completion event. On an
idle engine or an empty queue there is no step and nothing changes. -/
def teCopy (s : State) : Out :=
  if s.flt.fault then .fault .afterFault
  else if s.te.busy then
    match sauPop s with
    | none => .next s
    | some (w, s') =>
      match memWrite s'.par s'.mem s'.te.waddr .w4 w with
      | none => .fault .dataMemory
      | some m => .next (teAdvance (s'.setMem m))
  else .next s

end Sys2Proof.Machine
end

