-- ==== Sys2Proof/Machine/CompletionHandler.lean ====
section
/-! DEFINITION. The Completion Handler (spec/42_completion_handler.md): its four steps. Each is called
where it is enabled (42 R160); Sys2Proof/Machine/Schedule.lean says where. -/

namespace Sys2Proof.Machine

/-- `CH.ENTER` (42 R161). -/
def chEnter (s : State) : Out :=
  if s.flt.fault then .fault .afterFault else .next (enterHandler s)

/-- `CH.PUBLISH` (42 R162). -/
def chPublish (s : State) : Out :=
  if s.flt.fault then .fault .afterFault
  else .next (((s.setSes { s.ses with active := s.ch.next }).setRep
    { s.rep with swapcnt := satSucc s.rep.swapcnt }).setCh { s.ch with hpc := .published })

/-- `CH.RETARGET` (42 R163): TE_MISUSE on a busy engine leaves `in_handler` at 1 (60 R255). -/
def chRetarget (s : State) : Out :=
  if s.flt.fault then .fault .afterFault
  else
    match teRetrigger (s.ses.buf s.ch.next) s with
    | none => .next (takeFault .teMisuse s)
    | some s' => .next (s'.setCh { s'.ch with hpc := .retargeted })

/-- `CH.ACK` (42 R164): the acknowledge, then the return. -/
def chAck (s : State) : Out :=
  if s.flt.fault then .fault .afterFault else .next (leaveHandler (teAck s))

end Sys2Proof.Machine
end

