-- ==== Sys2Proof/Machine/Commands.lean ====
section
/-! DEFINITION. The Acquisition Controller's commands (spec/43_controller_commands.md): each an ordered
list of micro-steps, one application step each. The meaning of a command instruction is its next
application step: its CMD write when no command is in progress (30 R99), its next micro-step when it is
the command in progress (43 R180; notes/assumptions/8.md). -/

namespace Sys2Proof.Machine

/-- One application step of the command `op` (with `b`), whose micro-steps are `micro` (43 R180). -/
def commandStep (op : CmdOp) (b : Bool) (micro : Nat → State → Out) (s : State) : Out :=
  if s.flt.fault then .fault .afterFault
  else if s.ch.inHandler then .refused .appHeld
  else if s.cmd.op = .none then .next (startCommand op b s)
  else if s.cmd.op = op ∧ (op = .getbuf → s.cmd.b = b) then micro s.cmd.cpc.toNat s
  else .refused .hostBlocked

/-- A check step (43 R181): the first cause that applies, else on to micro-step `k`. -/
def checkStep (cause : Option Cause) (k : Nat) (s : State) : Out :=
  match cause with
  | some c => .next (takeFault c s)
  | none => .next (goTo k s)

/-! ## INIT (43 R185) -/

/-- The checks of I0 in the order of 60 R245. -/
def initCause (s : State) : Option Cause :=
  if s.ses.sess ≠ .uninit then some .pvReinit
  else if s.stage.count.toNat = 0 ∨ s.stage.count.toNat > Config.maxCount then some .pvBadParam
  else if s.stage.freq.toNat = 0 then some .pvBadParam
  else if s.stage.unit.toNat ≥ s.par.numSauUnits then some .pvBadParam
  else if s.stage.cpin.toNat ≥ s.par.numPins - 1 ∨ s.stage.dpin.toNat ≥ s.par.numPins then some .pvPin
  else if s.stage.dpin = s.stage.cpin ∨ s.stage.dpin = s.stage.cpin + 1#32 then some .pvPin
  else none

def initI0 (s : State) : Out := checkStep (initCause s) 1 s

/-- I1: buffer 0, or OutOfMemory. `n` is `CFG_COUNT`, which the blocked host cannot change (log 10). -/
def initI1 (s : State) : Out :=
  match alloc (4 * s.stage.count.toNat) s with
  | (none, s') => .next (endCommand .outOfMemory s')
  | (some a, s') => .next (goTo 2 (s'.setSes { s'.ses with buf0 := a }))

/-- I2: buffer 1, or buffer 0 released and OutOfMemory. -/
def initI2 (s : State) : Out :=
  match alloc (4 * s.stage.count.toNat) s with
  | (none, s') =>
    .next (endCommand .outOfMemory ((free s'.ses.buf0 s').setSes { s'.ses with buf0 := 0#32 }))
  | (some a, s') => .next (goTo 3 (s'.setSes { s'.ses with buf1 := a }))

/-- I3: the zero fill, as one step (43 R185 (c)). -/
def initI3 (s : State) : Out :=
  match zeroFill s.par s.ses.buf0 s.ses.buf1 s.stage.count.toNat s.mem with
  | none => .fault .dataMemory
  | some m => .next (goTo 4 (s.setMem m))

def initI4 (s : State) : Out :=
  let s' := sauConfig s.stage.unit s.stage.dpin s.stage.cpin s.stage.freq s
  .next (goTo 5 (s'.setCfg { s'.cfg with n := s.stage.count }))

def initI5 (s : State) : Out := .next (goTo 6 (teClaim s))

def initI6 (s : State) : Out := .next (goTo 7 (s.setIrq { s.irq with en := true }))

def initI7 (s : State) : Out :=
  .next (endCommand .ok
    ((s.setSes { s.ses with active := false, sess := .ready }).setRep { s.rep with swapcnt := 0#32 }))

/-- The micro-steps of INIT. -/
def initMicro (k : Nat) (s : State) : Out :=
  match k with
  | 0 => initI0 s
  | 1 => initI1 s
  | 2 => initI2 s
  | 3 => initI3 s
  | 4 => initI4 s
  | 5 => initI5 s
  | 6 => initI6 s
  | 7 => initI7 s
  | _ => .fault .noMicroStep

/-- `INIT`. -/
def execInit (s : State) : Out := commandStep .init false initMicro s

/-! ## START (43 R188) -/

def startCause (s : State) : Option Cause :=
  match s.ses.sess with
  | .uninit => some .pvNotInit
  | .active => some .pvDoubleStart
  | .ready => none

def startS0 (s : State) : Out := checkStep (startCause s) 1 s

def startS1 (s : State) : Out :=
  .next (goTo 2
    ((s.setSes { s.ses with active := false, sess := .active }).setRep { s.rep with swapcnt := 0#32 }))

def startS2 (s : State) : Out :=
  match teArm s.ses.buf0 s.cfg.n s with
  | none => .next (takeFault .teMisuse s)
  | some s' => .next (goTo 3 s')

def startS3 (s : State) : Out := .next (goTo 4 (sauRestart (sauClear s)))

def startS4 (s : State) : Out := .next (endCommand .ok (sauEnable s))

/-- The micro-steps of START. -/
def startMicro (k : Nat) (s : State) : Out :=
  match k with
  | 0 => startS0 s
  | 1 => startS1 s
  | 2 => startS2 s
  | 3 => startS3 s
  | 4 => startS4 s
  | _ => .fault .noMicroStep

/-- `START`. -/
def execStart (s : State) : Out := commandStep .start false startMicro s

/-! ## STOP (43 R191) -/

def stopCause (s : State) : Option Cause :=
  match s.ses.sess with
  | .uninit => some .pvNotInit
  | .ready => some .pvStopInactive
  | .active => none

def stopT0 (s : State) : Out := checkStep (stopCause s) 1 s

def stopT1 (s : State) : Out := .next (goTo 2 (sauDisable s))

def stopT2 (s : State) : Out :=
  .next (endCommand .ok ((teAbort s).setSes { s.ses with sess := .ready }))

/-- The micro-steps of STOP. -/
def stopMicro (k : Nat) (s : State) : Out :=
  match k with
  | 0 => stopT0 s
  | 1 => stopT1 s
  | 2 => stopT2 s
  | _ => .fault .noMicroStep

/-- `STOP`. -/
def execStop (s : State) : Out := commandStep .stop false stopMicro s

/-! ## GETBUF (43 R194) -/

def getbufCause (s : State) : Option Cause :=
  if s.ses.sess = .uninit then some .pvNotInit else none

/-- Where G0 goes on: to G3 if `b = 0`. -/
def getbufEntry (b : Bool) : Nat :=
  match b with
  | true => 1
  | false => 3

def getbufG0 (s : State) : Out := checkStep (getbufCause s) (getbufEntry s.cmd.b) s

def getbufG1 (s : State) : Out :=
  .next (goTo 2 (s.setCmd { s.cmd with gbA0 := s.ses.active }))

/-- G2 waits: until `active` differs from its value at G1 nothing changes (a busy-wait, log 12). -/
def getbufG2 (s : State) : Out :=
  if s.ses.active = s.cmd.gbA0 then .next s else .next (goTo 3 s)

def getbufG3 (s : State) : Out :=
  .next (endCommand .ok
    (s.setRep { s.rep with result := s.ses.buf (!s.ses.active), swapcnt := 0#32 }))

/-- The micro-steps of GETBUF. -/
def getbufMicro (k : Nat) (s : State) : Out :=
  match k with
  | 0 => getbufG0 s
  | 1 => getbufG1 s
  | 2 => getbufG2 s
  | 3 => getbufG3 s
  | _ => .fault .noMicroStep

/-- `GETBUF.NB` (`b = 0`) and `GETBUF.B` (`b = 1`). -/
def execGetbuf (b : Bool) (s : State) : Out := commandStep .getbuf b getbufMicro s

/-! ## RECORD (43 R198) -/

def recordCause (s : State) : Option Cause :=
  match s.ses.sess with
  | .uninit => some .pvNotInit
  | .active => some .pvRecordActive
  | .ready => none

def recordK0 (s : State) : Out := checkStep (recordCause s) 1 s

def recordK1 (s : State) : Out :=
  let s' := if s.par.recordClearsRxq then sauClear s else s
  let s'' := sauEnable (sauRestart s')
  .next (goTo 2 (s''.setCmd { s''.cmd with recK := 0#32 }))

/-- After `k` of `n` words: stay at K2 or go on to K3. -/
def recordNext (k n : Word) : Nat := if k.toNat < n.toNat then 2 else 3

/-- K2: one word from the queue to word `rec_k` of buffer 0; on an empty queue nothing changes (a busy-wait,
log 12). -/
def recordK2 (s : State) : Out :=
  match sauPop s with
  | none => .next s
  | some (w, s') =>
    match memWrite s'.par s'.mem (wordAddr s'.ses.buf0 s'.cmd.recK.toNat) .w4 w with
    | none => .fault .dataMemory
    | some m =>
      let k := s'.cmd.recK + 1#32
      let s'' := (s'.setMem m).setCmd { s'.cmd with recK := k }
      .next (goTo (recordNext k s'.cfg.n) s'')

def recordK3 (s : State) : Out :=
  let s' := sauDisable s
  .next (endCommand .ok (s'.setRep { s'.rep with result := s'.ses.buf0 }))

/-- The micro-steps of RECORD. -/
def recordMicro (k : Nat) (s : State) : Out :=
  match k with
  | 0 => recordK0 s
  | 1 => recordK1 s
  | 2 => recordK2 s
  | 3 => recordK3 s
  | _ => .fault .noMicroStep

/-- `RECORD`. -/
def execRecord (s : State) : Out := commandStep .record false recordMicro s

/-- APP has no step although a command is in progress: GETBUF waits at G2, RECORD at K2 (00 R12 `wait until`). -/
def appWaiting (s : State) : Bool :=
  match s.cmd.op, s.cmd.cpc.toNat with
  | .getbuf, 2 => s.ses.active == s.cmd.gbA0
  | .record, 2 => !dreq s
  | _, _ => false

end Sys2Proof.Machine
end

