-- ==== Sys2Proof/Machine/Registers.lean ====
section
/-! DEFINITION. The host's accesses to the register window (spec/44_host_access_and_sample_format.md
rules R223 to R227), one definition per row of the opcode table. -/

namespace Sys2Proof.Machine

/-- A host read of a register without side effect (10 R40, 20 R67). -/
def readView (v : Word) (s : State) : Out := hostGate s fun s => .next (returnToHost v s)

/-- A host write of a staging register (44 R223). -/
def writeStage (x : Stage) (s : State) : Out := hostGate s fun s => .next (s.setStage x)

def execWrCfgUnit (v : Word) (s : State) : Out := writeStage { s.stage with unit := v } s
def execRdCfgUnit (s : State) : Out := readView s.stage.unit s
def execWrCfgDpin (v : Word) (s : State) : Out := writeStage { s.stage with dpin := v } s
def execRdCfgDpin (s : State) : Out := readView s.stage.dpin s
def execWrCfgCpin (v : Word) (s : State) : Out := writeStage { s.stage with cpin := v } s
def execRdCfgCpin (s : State) : Out := readView s.stage.cpin s
def execWrCfgFreq (v : Word) (s : State) : Out := writeStage { s.stage with freq := v } s
def execRdCfgFreq (s : State) : Out := readView s.stage.freq s
def execWrCfgCount (v : Word) (s : State) : Out := writeStage { s.stage with count := v } s
def execRdCfgCount (s : State) : Out := readView s.stage.count s

/-- The write of a command word (44 R225): a legal one starts its command, an illegal one faults with cause
ILLEGAL_CMD and starts nothing. -/
def writeCommand (v : Word) (s : State) : State :=
  match decodeCmd v with
  | .error _ => takeFault .illegalCmd s
  | .ok i =>
    match commandOf i with
    | none => takeFault .illegalCmd s
    | some (op, b) => startCommand op b s

/-- `WR CMD, v`. -/
def execWrCmd (v : Word) (s : State) : Out := hostGate s fun s => .next (writeCommand v s)

/-- `RD STATUS` (44 R226): the one operation that keeps its meaning after a fault (60 R243, log 21). -/
def execRdStatus (s : State) : Out :=
  if s.flt.fault then .next (returnToHost (statusWord s) s) else readView (statusWord s) s

def execRdResult (s : State) : Out := readView s.rep.result s
def execRdBuf0Addr (s : State) : Out := readView s.ses.buf0 s
def execRdBuf1Addr (s : State) : Out := readView s.ses.buf1 s
def execRdSwapcnt (s : State) : Out := readView s.rep.swapcnt s
def execRdTeWaddr (s : State) : Out := readView s.te.waddr s
def execRdTeRemain (s : State) : Out := readView s.te.remain s
def execRdRxqLevel (s : State) : Out := readView (rxqLevel s) s

end Sys2Proof.Machine
end

