-- ==== Sys2Proof/Machine/Dispatch.lean ====
section
/-! DEFINITION. Dispatch: one arm per instruction, each one call of its meaning. -/

namespace Sys2Proof.Machine

def exec (i : Instr) (s : State) : Host.Outcome State Fault Refusal :=
  match i with
  | .init => Sys2Proof.Machine.execInit s
  | .start => Sys2Proof.Machine.execStart s
  | .stop => Sys2Proof.Machine.execStop s
  | .getbuf b => Sys2Proof.Machine.execGetbuf b s
  | .record => Sys2Proof.Machine.execRecord s
  | .wrCfgUnit v => Sys2Proof.Machine.execWrCfgUnit v s
  | .rdCfgUnit => Sys2Proof.Machine.execRdCfgUnit s
  | .wrCfgDpin v => Sys2Proof.Machine.execWrCfgDpin v s
  | .rdCfgDpin => Sys2Proof.Machine.execRdCfgDpin s
  | .wrCfgCpin v => Sys2Proof.Machine.execWrCfgCpin v s
  | .rdCfgCpin => Sys2Proof.Machine.execRdCfgCpin s
  | .wrCfgFreq v => Sys2Proof.Machine.execWrCfgFreq v s
  | .rdCfgFreq => Sys2Proof.Machine.execRdCfgFreq s
  | .wrCfgCount v => Sys2Proof.Machine.execWrCfgCount v s
  | .rdCfgCount => Sys2Proof.Machine.execRdCfgCount s
  | .wrCmd v => Sys2Proof.Machine.execWrCmd v s
  | .rdStatus => Sys2Proof.Machine.execRdStatus s
  | .rdResult => Sys2Proof.Machine.execRdResult s
  | .rdBuf0Addr => Sys2Proof.Machine.execRdBuf0Addr s
  | .rdBuf1Addr => Sys2Proof.Machine.execRdBuf1Addr s
  | .rdSwapcnt => Sys2Proof.Machine.execRdSwapcnt s
  | .rdTeWaddr => Sys2Proof.Machine.execRdTeWaddr s
  | .rdTeRemain => Sys2Proof.Machine.execRdTeRemain s
  | .rdRxqLevel => Sys2Proof.Machine.execRdRxqLevel s

end Sys2Proof.Machine
end

