-- ==== Sys2Proof/Machine/HostMemory.lean ====
section
/-! DEFINITION. The host's loads and stores on the buffers (spec/44_host_access_and_sample_format.md rule
R228, spec/20_memory.md rules R64 to R66). They have an effect and no encoding (30 R98). -/

namespace Sys2Proof.Machine

/-- Where a host access to data memory has a meaning: aligned (20 R64) and inside a buffer (20 R66). -/
def hostAccess (a : Word) (w : Width) (s : State) (k : State → Out) : Out :=
  hostGate s fun s =>
    if a.toNat % w.bytes ≠ 0 then .refused .hostMisaligned
    else if inBuffers s a w.bytes then k s
    else .refused .hostOutsideBuffers

/-- `LD` (44 R228): 8, 16 or 32 bits, zero-extended (20 R62). -/
def hostLoad (a : Word) (w : Width) (s : State) : Out :=
  hostAccess a w s fun s =>
    match memRead s.par s.mem a w with
    | none => .refused .hostOutsideBuffers
    | some v => .next (returnToHost v s)

/-- `ST` (44 R228): the low bytes of `v`; permitted on both buffers (20 R71). -/
def hostStore (a : Word) (w : Width) (v : Word) (s : State) : Out :=
  hostAccess a w s fun s =>
    match memWrite s.par s.mem a w v with
    | none => .refused .hostOutsideBuffers
    | some m => .next (s.setMem m)

end Sys2Proof.Machine
end

