-- ==== Sys2Proof/Machine/Schedule.lean ====
section
/-! DEFINITION. Who steps (spec/00_scope.md rules R6 to R8): the action each agent would take, when it is
enabled, the turn that is taken, and one step of the machine. -/

namespace Sys2Proof.Machine

/-- What a step is: one constructor per internal operation of 30 R100, one for the host's operations, one for
the micro-steps of a command. The unit primitives are the parts of a micro-step or a handler step that invoke
the units (00 R14): no turn takes one by itself, and the host cannot write one. -/
inductive Action where
  /-- The agent has no enabled step. -/
  | idle
  /-- APP: the host's next operation. -/
  | host (op : HostOp)
  /-- APP: the next micro-step of the command in progress. -/
  | micro (i : Instr)
  /-- SAU: `SAU.WORD`. -/
  | sauWord
  /-- TE: `TE.COPY`. -/
  | teCopy
  /-- IRQ: `CH.ENTER`. -/
  | chEnter
  /-- IRQ: `CH.PUBLISH`. -/
  | chPublish
  /-- IRQ: `CH.RETARGET`. -/
  | chRetarget
  /-- IRQ: `CH.ACK`. -/
  | chAck
  /-- SAU primitive `SAU_CONFIG`, 40 R120. -/
  | sauConfig (unit dpin cpin freq : Word)
  /-- SAU primitive `SAU_CLEAR`, 40 R121. -/
  | sauClear
  /-- SAU primitive `SAU_RESTART`, 40 R122. -/
  | sauRestart
  /-- SAU primitive `SAU_ENABLE`, 40 R123. -/
  | sauEnable
  /-- SAU primitive `SAU_DISABLE`, 40 R124. -/
  | sauDisable
  /-- SAU primitive `SAU_POP`, 40 R125. -/
  | sauPop
  /-- Engine primitive `TE_CLAIM`, 41 R141. -/
  | teClaim
  /-- Engine primitive `TE_ARM`, 41 R142. -/
  | teArm (addr n : Word)
  /-- Engine primitive `TE_RETRIGGER`, 41 R143. -/
  | teRetrigger (addr : Word)
  /-- Engine primitive `TE_ABORT`, 41 R144. -/
  | teAbort
  /-- Engine primitive `TE_ACK`, 41 R147. -/
  | teAck
  /-- The reset input is asserted. -/
  | reset
deriving DecidableEq, Repr

/-- The unit primitives (30 R100). -/
def Action.isPrimitive : Action → Bool
  | .sauConfig .. | .sauClear | .sauRestart | .sauEnable | .sauDisable | .sauPop => true
  | .teClaim | .teArm .. | .teRetrigger .. | .teAbort | .teAck => true
  | .idle | .host .. | .micro .. | .sauWord | .teCopy | .chEnter | .chPublish | .chRetarget | .chAck
  | .reset => false

/-- Nobody moves. -/
def Action.isIdle : Action → Bool
  | .idle => true
  | _ => false

/-- `IRQ_MAX_DEFER` APP steps have passed since the interrupt became deliverable (00 R10, log 11). -/
def deferSpent (s : State) : Bool :=
  irqLine s &&
  match s.par.irqMaxDefer with
  | none => false
  | some b => decide (b ≤ s.env.irqDefer)

/-- The host's next operation, if it has one. -/
def hostAction (s : State) : Action :=
  match s.env.hostOps with
  | [] => .idle
  | op :: _ => .host op

/-- APP (00 R7, R8, 43 R180, 44 R220): the micro-step of the command in progress unless it waits, else the
host's next operation; nothing while the handler runs. After a fault only the host is left (60 R243). -/
def appAction (s : State) : Action :=
  if s.flt.fault then hostAction s
  else if s.ch.inHandler || deferSpent s then .idle
  else
    match inProgress s.cmd with
    | some i => if appWaiting s then .idle else .micro i
    | none => hostAction s

/-- IRQ (42 R160 to R164): entry when pending and enabled and not yet in the handler; once in it, the step
that `hpc` names. -/
def irqAction (s : State) : Action :=
  match s.ch.inHandler, s.ch.hpc with
  | false, _ => if irqLine s then .chEnter else .idle
  | true, .entered => .chPublish
  | true, .published => .chRetarget
  | true, .retargeted => .chAck
  | true, .idle => .idle

/-- The step each agent would take in a state: `idle` where it is not enabled (00 R7). -/
def actionOf (t : Turn) (s : State) : Action :=
  match t with
  | .app => appAction s
  | .irq => irqAction s
  | .sau => if s.sau.en then .sauWord else .idle
  | .te => if teEnabled s then .teCopy else .idle
  | .reset => .reset

/-- The agents that have an enabled step. -/
def enabledTurns (s : State) : List Turn :=
  [Turn.app, Turn.irq, Turn.sau, Turn.te].filter fun t => !(actionOf t s).isIdle

/-- The next turn and the state with it taken: the one the environment has decided on; else the only enabled
agent; else a free choice among the enabled ones (00 R7, log 2). -/
def takeTurn (s : State) : Option Turn × State :=
  match s.env.sched with
  | t :: ts => (some t, s.setEnv { s.env with sched := ts })
  | [] =>
    match enabledTurns s with
    | [] => (none, s)
    | [t] => (some t, s)
    | t :: u :: ts =>
      ((t :: u :: ts)[Config.scheduleChoice s.env.drawn % (t :: u :: ts).length]?,
        s.setEnv { s.env with drawn := s.env.drawn + 1 })

/-- A rejected encoding (44 R221, R225, 60 R245): outside the window it is no transaction of this block; an
illegal command word faults with ILLEGAL_CMD, every other rejection with BAD_ACCESS. -/
def reject (r : Reject) (s : State) : Out :=
  match r with
  | .outsideWindow => .refused .outsideWindow
  | .illegalCommand => hostGate s fun s => .next (takeFault .illegalCmd s)
  | .badWidth | .misaligned | .readOfWriteOnly | .writeOfReadOnly | .reservedOffset =>
    hostGate s fun s => .next (takeFault .badAccess s)

/-- Run an encoding: decode it and run the instruction, or reject it. -/
def runEncoding (e : Encoding) (s : State) : Out :=
  match decode s.par.sauBase e with
  | .ok i => exec i s
  | .error r => reject r s

/-- One host operation. -/
def issue (op : HostOp) (s : State) : Out :=
  match op with
  | .bus t => runEncoding (.bus t) s
  | .cmd w => runEncoding (.cmdWord w) s
  | .load a w => hostLoad a w s
  | .store a w v => hostStore a w v s

/-- The host's next operation is taken from its program. -/
def dropHostOp (s : State) : State := s.setEnv { s.env with hostOps := s.env.hostOps.tail }

/-- An APP step taken while the interrupt is deliverable counts (log 11). -/
def countDefer (s : State) : State :=
  s.setEnv { s.env with irqDefer := s.env.irqDefer + (irqLine s).toNat }

/-- The handler is entered: the count starts again (log 11). -/
def clearDefer (s : State) : State := s.setEnv { s.env with irqDefer := 0 }

/-- A unit primitive by itself: `none` is its fault TE_MISUSE (41 R142, R143). -/
def runPrimitive (o : Option State) (s : State) : Out :=
  if s.flt.fault then .fault .afterFault
  else
    match o with
    | none => .next (takeFault .teMisuse s)
    | some t => .next t

/-- The queue after `SAU_POP`; on an empty one the primitive has no effect (40 R125: it does not come up). -/
def dropHead (s : State) : State :=
  match sauPop s with
  | none => s
  | some (_, t) => t

/-- Take an action. -/
def perform (a : Action) (s : State) : Out :=
  match a with
  | .idle => .next s
  | .host op => issue op (countDefer (dropHostOp s))
  | .micro i => exec i (countDefer s)
  | .sauWord => sauWord s
  | .teCopy => teCopy s
  | .chEnter => chEnter (clearDefer s)
  | .chPublish => chPublish s
  | .chRetarget => chRetarget s
  | .chAck => chAck s
  | .sauConfig unit dpin cpin freq => runPrimitive (some (sauConfig unit dpin cpin freq s)) s
  | .sauClear => runPrimitive (some (sauClear s)) s
  | .sauRestart => runPrimitive (some (sauRestart s)) s
  | .sauEnable => runPrimitive (some (sauEnable s)) s
  | .sauDisable => runPrimitive (some (sauDisable s)) s
  | .sauPop => runPrimitive (some (dropHead s)) s
  | .teClaim => runPrimitive (some (teClaim s)) s
  | .teArm addr n => runPrimitive (teArm addr n s) s
  | .teRetrigger addr => runPrimitive (teRetrigger addr s) s
  | .teAbort => runPrimitive (some (teAbort s)) s
  | .teAck => runPrimitive (some (teAck s)) s
  | .reset => .next (assertReset s)

/-- One step: one agent's turn (00 R7). -/
def stepOnce (s : State) : Out :=
  match (takeTurn s).1 with
  | none => .next (takeTurn s).2
  | some t => perform (actionOf t (takeTurn s).2) (takeTurn s).2

/-- The host operation that carries an encoding. -/
def hostOpOf : Encoding → HostOp
  | .cmdWord w => .cmd w
  | .bus t => .bus t

/-- Put the instruction with bits `w` (numbered as the opcode table numbers them) where the next step takes
it: at the head of the host's program, with APP's turn next (log 17). -/
def placeWord (nbits w : Nat) (s : State) : State :=
  s.setEnv { s.env with
    hostOps := hostOpOf (tableEncoding s.par.sauBase nbits w) :: s.env.hostOps
    sched := .app :: s.env.sched }

end Sys2Proof.Machine
end

