-- ==== Sys2Proof/Machine/Sample.lean ====
section
/-! DEFINITION. What a consumer reads out of a SampleWord (spec/44_host_access_and_sample_format.md rules
R230 and R231). The block itself never looks inside a word. -/

namespace Sys2Proof.Machine

/-- `sample(w)`: the 16 bits from `lsb` up, as two's complement. -/
def sample (lsb : Nat) (w : Word) : Int := (w.extractLsb' lsb 16).toInt

/-- The other stereo channel. -/
def otherChannel : Channel → Channel
  | .left => .right
  | .right => .left

/-- The channel of the word that is completed while `sau_phase = phase`. -/
def channelOf (p : Params) (phase : Bool) : Channel :=
  if phase then otherChannel p.firstChannel else p.firstChannel

/-- The channel of the `k`-th word after a restart, from 0. -/
def channelOfWord (p : Params) (k : Nat) : Channel := channelOf p (decide (k % 2 = 1))

end Sys2Proof.Machine
end

