-- ==== Sys2Proof/Safety.lean ====
section
/-! DEFINITION. The terms claims use: the end of a run (spec/70_reset_and_hazards.md rule R298), the invariants
of spec/10_state.md rule R51 in a form every step keeps, the ping-pong property of rule R52, what memory
holds, the uninterrupted run of a command, and fair runs (spec/00_scope.md rule R9). -/

namespace Sys2Proof.Machine

/-- 70 R298: no agent but the host has an enabled step. -/
def Quiescent (s : State) : Prop :=
  s.cmd.op = .none ∧ s.ch.inHandler = false ∧ s.te.busy = false ∧ s.sau.en = false ∧
  (s.irq.pend = false ∨ s.irq.en = false)

/-- 70 R298: a good end state. -/
def GoodEnd (s : State) : Prop := Quiescent s ∧ s.flt.fault = false

/-- The host may act (44 R220) and nothing has faulted. -/
def HostMayAct (s : State) : Prop :=
  s.flt.fault = false ∧ s.ch.inHandler = false ∧ s.cmd.op = .none

/-- The command `op` is about to take its micro-step `k` (43 R180). -/
def AtMicroStep (op : CmdOp) (k : Nat) (s : State) : Prop :=
  s.flt.fault = false ∧ s.ch.inHandler = false ∧ s.cmd.op = op ∧ s.cmd.cpc.toNat = k

/-- What `fault(cause)` leaves where no fault is recorded yet (60 R243), written out. -/
def faulted (c : Cause) (s : State) : State :=
  { s with flt := { fault := true, cause := c }, cmd := { s.cmd with op := .none, cpc := 0#32 } }

/-- The next turn is no reset: neither decided on nor, ever, a free choice. -/
def NoReset (s : State) : Prop := s.env.sched.head? ≠ some .reset

/-- `n` application steps of the command `i` with no step of another agent between them. -/
def execTimes (i : Instr) : Nat → State → Out
  | 0, s => .next s
  | n + 1, s =>
    match exec i s with
    | .next t => execTimes i n t
    | o => o

/-- `n` steps. -/
def stepTimes : Nat → State → Out
  | 0, s => .next s
  | n + 1, s =>
    match step s with
    | .next t => stepTimes n t
    | o => o

/-! ## Runs and weak fairness (00 R9) -/

/-- An agent has a step (00 R7). -/
def Enabled (t : Turn) (s : State) : Prop := actionOf t s ≠ .idle

/-- The environment lets `t` step next (00 R6). -/
def scheduled (t : Turn) (s : State) : State := { s with env := { s.env with sched := [t] } }

/-- `r` is a run without end under the schedule `τ`: at each point the agent `τ k` steps and the machine goes on. -/
def RunsBy (τ : Nat → Turn) (r : Nat → State) : Prop :=
  ∀ k, step (scheduled (τ k) (r k)) = .next (r (k + 1))

/-- 00 R9: weak fairness per agent. An agent whose step stays enabled is eventually stepped; asserting reset is no
agent's step. -/
def WeaklyFair (τ : Nat → Turn) (r : Nat → State) : Prop :=
  ∀ t, t ≠ .reset → ∀ k, (∀ j ≥ k, Enabled t (r j)) → ∃ j ≥ k, τ j = t

/-- The word `w` stands at address `a`, least significant byte first (20 R61). -/
def HoldsWord (m : Memory) (a : Nat) (w : Word) : Prop :=
  ∀ i < 4, m.read? (a + i) = some (w.extractLsb' (8 * i) 8)

/-- Every byte outside the `n` bytes at `a` reads as before. -/
def SameOutside (m m' : Memory) (a n : Nat) : Prop :=
  ∀ x, x < a ∨ a + n ≤ x → m'.read? x = m.read? x

/-- 43 R185 I0: what INIT asks of the staging registers. -/
def InitLegal (p : Params) (x : Stage) : Prop :=
  1 ≤ x.count.toNat ∧ x.count.toNat ≤ Config.maxCount ∧ 1 ≤ x.freq.toNat ∧ x.unit.toNat < p.numSauUnits ∧
  x.cpin.toNat < p.numPins - 1 ∧ x.dpin.toNat < p.numPins ∧ x.dpin ≠ x.cpin ∧ x.dpin ≠ x.cpin + 1#32

/-- 20 R70: the addresses the allocator may answer with. -/
def AllocAllows (p : Params) (live : List Region) (nbytes : Nat) (a : Word) : Prop :=
  a.toNat % 4 = 0 ∧ p.dataBase.toNat ≤ a.toNat ∧ a.toNat + nbytes ≤ p.dataBase.toNat + p.dataSize ∧
  a.toNat + nbytes ≤ 2 ^ 32 ∧ ∀ r ∈ live, a.toNat + nbytes ≤ r.base.toNat ∨ r.base.toNat + r.size ≤ a.toNat

/-- A buffer of `n` words at `a`: aligned, inside data memory, without wrapping (20 R70). -/
def RegionOk (p : Params) (a : Word) (n : Nat) : Prop :=
  a.toNat % 4 = 0 ∧ p.dataBase.toNat ≤ a.toNat ∧ a.toNat + 4 * n ≤ p.dataBase.toNat + p.dataSize ∧
  a.toNat + 4 * n ≤ 2 ^ 32

/-- 10 R51 (b): both buffers of `n` words are regions and share no byte, and `n` is legal. -/
def BuffersOk (s : State) (n : Nat) : Prop :=
  1 ≤ n ∧ n ≤ Config.maxCount ∧ RegionOk s.par s.ses.buf0 n ∧ RegionOk s.par s.ses.buf1 n ∧
  (s.ses.buf0.toNat + 4 * n ≤ s.ses.buf1.toNat ∨ s.ses.buf1.toNat + 4 * n ≤ s.ses.buf0.toNat)

/-- What INIT has done when it is about to take micro-step `cpc` (43 R185). -/
def InitProgress (s : State) : Prop :=
  s.cmd.cpc.toNat = 0 ∧ (s.ses.sess = .uninit → s.irq.en = false ∧ s.ses.buf0 = 0#32 ∧ s.ses.buf1 = 0#32) ∨
  1 ≤ s.cmd.cpc.toNat ∧ s.cmd.cpc.toNat ≤ 7 ∧ s.ses.sess = .uninit ∧
    1 ≤ s.stage.count.toNat ∧ s.stage.count.toNat ≤ Config.maxCount ∧
    (s.cmd.cpc.toNat ≤ 6 → s.irq.en = false) ∧
    (s.cmd.cpc.toNat = 1 → s.ses.buf0 = 0#32 ∧ s.ses.buf1 = 0#32) ∧
    (s.cmd.cpc.toNat = 2 → RegionOk s.par s.ses.buf0 s.stage.count.toNat ∧ s.ses.buf1 = 0#32 ∧
      { base := s.ses.buf0, size := 4 * s.stage.count.toNat } ∈ s.live) ∧
    (3 ≤ s.cmd.cpc.toNat → BuffersOk s s.stage.count.toNat) ∧
    (5 ≤ s.cmd.cpc.toNat → s.cfg.n = s.stage.count) ∧
    (s.cmd.cpc.toNat = 7 → s.irq.en = true)

/-- What the command in progress has established (43 R185 to R198). -/
def CommandProgress (s : State) : Prop :=
  match s.cmd.op with
  | .none => s.cmd.cpc.toNat = 0
  | .init => InitProgress s
  | .start => s.cmd.cpc.toNat ≤ 4 ∧ (s.cmd.cpc.toNat = 1 → s.ses.sess = .ready) ∧ (2 ≤ s.cmd.cpc.toNat → s.ses.sess = .active)
  | .stop => s.cmd.cpc.toNat ≤ 2 ∧ (1 ≤ s.cmd.cpc.toNat → s.ses.sess = .active)
  | .getbuf => s.cmd.cpc.toNat ≤ 3 ∧ (1 ≤ s.cmd.cpc.toNat → s.ses.sess ≠ .uninit)
  | .record =>
    s.cmd.cpc.toNat ≤ 3 ∧ (1 ≤ s.cmd.cpc.toNat → s.ses.sess = .ready) ∧
    (s.cmd.cpc.toNat = 2 → s.cmd.recK.toNat < s.cfg.n.toNat)

/-- The engine's address is that of the word it has reached in buffer `i` (41 R146). -/
def TargetIs (s : State) (i : Bool) : Prop :=
  s.te.waddr = wordAddr (s.ses.buf i) (s.te.reload.toNat - s.te.remain.toNat)

/-- 10 R51 in the form every step keeps: its clauses (a) to (e), the canonical form of memory, what a
command in progress has established, and where the engine writes (41 R146). -/
structure BlockInv (s : State) : Prop where
  memory : s.mem.wf = true
  /-- (a), with the interrupt: nothing runs before a session exists. -/
  uninit : s.ses.sess = .uninit → s.te.busy = false ∧ s.sau.en = false ∧ s.irq.pend = false ∧
    s.ch.inHandler = false ∧
    (s.cmd.op ≠ .init → s.irq.en = false ∧ s.ses.buf0 = 0#32 ∧ s.ses.buf1 = 0#32)
  /-- (b) -/
  buffers : s.ses.sess ≠ .uninit → BuffersOk s s.cfg.n.toNat
  /-- (c) -/
  queue : s.sau.rxq.length ≤ s.par.rxqDepth
  /-- (d), and 41 R146. -/
  engine : s.te.busy = true → 1 ≤ s.te.remain.toNat ∧ s.te.remain.toNat ≤ s.te.reload.toNat ∧
    ∃ i, TargetIs s i
  /-- A transfer, a pending event or a running handler presupposes an armed engine. -/
  armed : s.te.busy = true ∨ s.irq.pend = true ∨ s.ch.inHandler = true → s.te.reload = s.cfg.n
  /-- (e), both ways. -/
  handler : s.ch.inHandler = false ↔ s.ch.hpc = .idle
  command : CommandProgress s
  /-- `rec_k` never passes the count, so it never wraps (10 R26, 44 R232 (f)). -/
  counter : s.cmd.recK.toNat ≤ s.cfg.n.toNat ∧ (s.ses.sess = .uninit → s.cmd.recK.toNat = 0)

/-- 10 R52 in the form every step keeps that loses no completion event: the engine writes to `buf[active]`,
but for the windows the rule leaves out, and while a session is active a transfer is armed or its
completion event is pending. -/
structure PingPong (s : State) : Prop where
  /-- `h_next` is published before the engine is retargeted (42 R162, R163). -/
  published : s.ch.hpc = .published ∨ s.ch.hpc = .retargeted → s.ch.next = s.ses.active
  /-- Between the retarget and the acknowledge the engine's target is the active buffer. -/
  retargeted : s.ch.hpc = .retargeted → s.te.busy = true → TargetIs s s.ses.active
  /-- Outside the handler, with no event pending and no fault, it is too, once START has armed it. -/
  target : s.flt.fault = false → s.ch.hpc = .idle → s.te.busy = true → s.irq.pend = false →
    ¬(s.cmd.op = .start ∧ s.cmd.cpc.toNat = 2) → TargetIs s s.ses.active
  /-- What START finds at S2 if the engine is idle and no event is pending. -/
  starting : s.ch.hpc = .idle → s.cmd.op = .start → s.cmd.cpc.toNat = 2 → s.te.busy = false →
    s.irq.pend = false → s.ses.active = false
  /-- An active session always has a transfer or an event. -/
  running : s.ch.hpc = .idle → s.ses.sess = .active → ¬(s.cmd.op = .start ∧ s.cmd.cpc.toNat = 2) →
    s.te.busy = true ∨ s.irq.pend = true

/-- 20 R70: the live regions hold at least one word each, lie inside data memory and share no byte. -/
def LiveOk (s : State) : Prop :=
  (∀ r ∈ s.live, 4 ≤ r.size ∧ s.par.dataBase.toNat ≤ r.base.toNat ∧
    r.base.toNat + r.size ≤ s.par.dataBase.toNat + s.par.dataSize) ∧
  s.live.Pairwise fun r q => r.base.toNat + r.size ≤ q.base.toNat ∨ q.base.toNat + q.size ≤ r.base.toNat

/-- 42 R161, 20 R79: between `CH.ENTER` and `CH.PUBLISH` nobody writes `active`, so `h_next` is still its
complement. -/
def HandlerSnapshot (s : State) : Prop := s.ch.hpc = .entered → s.ch.next = !s.ses.active

/-- 70 R294: a blocking GETBUF waits and no completion event is pending or can come. -/
def Hung (s : State) : Prop :=
  s.cmd.op = .getbuf ∧ s.cmd.cpc.toNat = 2 ∧ s.ses.active = s.cmd.gbA0 ∧ s.te.busy = false ∧ s.irq.pend = false ∧
  s.ch.inHandler = false ∧ s.flt.fault = false

/-- The handler's next step is a `CH.ACK` that would clear the event of a transfer completed inside the handler: the
lost completion event of 70 R290 is the interrupt's turn in such a state. -/
def LosesEvent (s : State) : Prop :=
  s.ch.inHandler = true ∧ s.ch.hpc = .retargeted ∧ s.te.busy = false

end Sys2Proof.Machine
end

