-- ==== Sys2Proof/Certificates/Slice0/Obligations.lean ====
section
/-! DEFINITION. The statements, one per claim; OBLIGATIONS.json gives each its title, tier and the rules it
rests on. Results are written out as record updates of the state before, so that each also says what it leaves
unchanged. -/

open Sys2Proof Sys2Proof.Machine

/-! ## Encodings (spec/30_encoding.md) -/

/-- Words of spec/95_test_vectors.md section 2 decode to the instructions the table there gives. -/
def Obligations.SpecWordsDecode : Prop :=
  decodeCmd 0x00000001#32 = .ok .init ∧ decodeCmd 0x00000002#32 = .ok .start ∧
  decodeCmd 0x00000003#32 = .ok .stop ∧ decodeCmd 0x00000004#32 = .ok (.getbuf false) ∧
  decodeCmd 0x00000014#32 = .ok (.getbuf true) ∧ decodeCmd 0x00000005#32 = .ok .record ∧
  decodeCmd 0x00000012#32 = .error .illegalCommand ∧ decodeCmd 0x00000024#32 = .error .illegalCommand ∧
  decode 0x40000000#32 (.bus ⟨.write, 0x4000000C#32, .w4, 0x3E80#32⟩) = .ok (.wrCfgFreq 16000#32) ∧
  decode 0x40000000#32 (.bus ⟨.read, 0x40000018#32, .w4, 0#32⟩) = .ok .rdStatus ∧
  decode 0x40000000#32 (.bus ⟨.read, 0x40000034#32, .w4, 0#32⟩) = .ok .rdRxqLevel

/-- 30 R91 to R96: for every instruction, with every operand and every place of the window, the decoder gives
back what the encoder wrote. -/
def Obligations.DecodeUndoesEncode : Prop :=
  ∀ (base : Word) (i : Instr), decode base (encode base i) = .ok i

/-- 30 R91 to R96: an encoding that decodes is the encoding of its instruction; a read carries no write data. -/
def Obligations.EncodeUndoesDecode : Prop :=
  ∀ (base : Word) (i : Instr),
    (∀ w, decode base (.cmdWord w) = .ok i → encode base i = .cmdWord w) ∧
    (∀ t, decode base (.bus t) = .ok i → t.kind = .write → encode base i = .bus t) ∧
    (∀ t, decode base (.bus t) = .ok i → t.kind = .read → encode base i = .bus { t with wdata := 0#32 })

/-- 30 R94 to R96: exactly the legal command words and the legal transactions of the window decode. -/
def Obligations.DecodeAcceptsLegalOnly : Prop :=
  ∀ (base : Word) (e : Encoding), (∃ i, decode base e = .ok i) ↔ e.wf base = true

/-- 44 R222: a transaction on the window faults with BAD_ACCESS, changing nothing else, exactly on the rule's
list; every other one is an instruction. -/
def Obligations.BadAccessFaults : Prop :=
  ∀ (s : State) (t : BusTuple), HostMayAct s → (t.addr - s.par.sauBase).toNat < 64 →
    let offset := (t.addr - s.par.sauBase).toNat
    let bad := t.width ≠ .w4 ∨ offset % 4 ≠ 0 ∨
      (t.kind = .write ∧ (offset = 0x18 ∨ offset = 0x1C ∨ offset = 0x20 ∨ offset = 0x24 ∨ offset = 0x28 ∨
        offset = 0x2C ∨ offset = 0x30 ∨ offset = 0x34)) ∨
      (t.kind = .read ∧ offset = 0x14) ∨ offset = 0x38 ∨ offset = 0x3C
    (bad → runEncoding (.bus t) s = .next (faulted .badAccess s)) ∧
    (¬ bad → ∃ i, decode s.par.sauBase (.bus t) = .ok i ∧ runEncoding (.bus t) s = exec i s)

/-- 44 R225 with 30 R94: the write of a command word. An illegal one faults with ILLEGAL_CMD and starts
nothing; a legal one puts its operation and its `b` into the command in progress. A command line of a host
program is that write (30 R99). -/
def Obligations.CommandWordWrite : Prop :=
  ∀ s : State, HostMayAct s →
    (∀ v : Word,
      (v.extractLsb' 0 4 = 0#4 ∨ 6 ≤ (v.extractLsb' 0 4).toNat ∨ v.extractLsb' 5 27 ≠ 0#27 ∨
        (v.getLsbD 4 = true ∧ v.extractLsb' 0 4 ≠ 4#4)) →
      exec (.wrCmd v) s = .next (faulted .illegalCmd s)) ∧
    exec (.wrCmd 0x01#32) s = .next { s with cmd := { s.cmd with op := .init, b := false, cpc := 0#32 } } ∧
    exec (.wrCmd 0x02#32) s = .next { s with cmd := { s.cmd with op := .start, b := false, cpc := 0#32 } } ∧
    exec (.wrCmd 0x03#32) s = .next { s with cmd := { s.cmd with op := .stop, b := false, cpc := 0#32 } } ∧
    exec (.wrCmd 0x04#32) s = .next { s with cmd := { s.cmd with op := .getbuf, b := false, cpc := 0#32 } } ∧
    exec (.wrCmd 0x14#32) s = .next { s with cmd := { s.cmd with op := .getbuf, b := true, cpc := 0#32 } } ∧
    exec (.wrCmd 0x05#32) s = .next { s with cmd := { s.cmd with op := .record, b := false, cpc := 0#32 } } ∧
    exec .init s = exec (.wrCmd 0x01#32) s ∧ exec .start s = exec (.wrCmd 0x02#32) s ∧
    exec .stop s = exec (.wrCmd 0x03#32) s ∧ exec (.getbuf false) s = exec (.wrCmd 0x04#32) s ∧
    exec (.getbuf true) s = exec (.wrCmd 0x14#32) s ∧ exec .record s = exec (.wrCmd 0x05#32) s

/-! ## Steps (spec/00_scope.md) -/

/-- 00 R6, R7, 44 R220 to R222, R225, R228: on APP's turn, when the host may act and the interrupt has not been
deferred as long as it may be, a step carries out the host's next operation: the instruction its transaction or command
word decodes to; the fault of an illegal command word or of an illegal transaction on the window; the load or the store
on data memory; and the refusal of a transaction outside the window (log 15). Around it the model takes the turn and the
operation off their lists and counts an APP step made while the interrupt is deliverable (log 2, 11, 17). -/
def Obligations.StepRunsHostTransaction : Prop :=
  ∀ (s : State) (op : HostOp) (turns : List Turn) (rest : List HostOp),
    s.env.sched = .app :: turns → HostMayAct s → deferSpent s = false → s.env.hostOps = op :: rest →
    let s' := { s with env := { s.env with
      sched := turns
      hostOps := rest
      irqDefer := s.env.irqDefer + if s.irq.pend = true ∧ s.irq.en = true then 1 else 0 } }
    (∀ e i, op = hostOpOf e → decode s.par.sauBase e = .ok i → step s = exec i s') ∧
    (∀ w, op = .cmd w → cmdWordWf w = false → step s = .next (faulted .illegalCmd s')) ∧
    (∀ t, op = .bus t → (t.addr - s.par.sauBase).toNat < 64 → t.wf s.par.sauBase = false →
      step s = .next (faulted .badAccess s')) ∧
    (∀ t, op = .bus t → 64 ≤ (t.addr - s.par.sauBase).toNat → step s = .refused .outsideWindow) ∧
    (∀ a w, op = .load a w → step s = hostLoad a w s') ∧
    (∀ a w v, op = .store a w v → step s = hostStore a w v s')

/-- 43 R180: on APP's turn with a command in progress that does not wait, a step is the command's next
micro-step; the host's program stays as it is. -/
def Obligations.StepRunsCommandMicroStep : Prop :=
  ∀ (s : State) (i : Instr) (turns : List Turn),
    s.env.sched = .app :: turns → s.flt.fault = false → s.ch.inHandler = false → deferSpent s = false →
    inProgress s.cmd = some i → appWaiting s = false →
    step s = exec i { s with env := { s.env with
      sched := turns
      irqDefer := s.env.irqDefer + if s.irq.pend = true ∧ s.irq.en = true then 1 else 0 } }

/-- 00 R7: on its turn an enabled agent takes its step; an agent without one changes nothing but the list of
turns (log 13), as APP while the handler runs (00 R8). -/
def Obligations.StepTakesTheTurn : Prop :=
  ∀ (s : State) (turns : List Turn),
    let s' := { s with env := { s.env with sched := turns } }
    (s.env.sched = .sau :: turns → step s = if s.sau.en = true then sauWord s' else .next s') ∧
    (s.env.sched = .te :: turns →
      step s = if s.te.busy = true ∧ s.sau.rxq ≠ [] then teCopy s' else .next s') ∧
    (s.env.sched = .irq :: turns → s.ch.inHandler = false →
      step s = if s.irq.pend = true ∧ s.irq.en = true then chEnter { s' with env := { s'.env with irqDefer := 0 } }
        else .next s') ∧
    (s.env.sched = .irq :: turns → s.ch.inHandler = true →
      (s.ch.hpc = .entered → step s = chPublish s') ∧ (s.ch.hpc = .published → step s = chRetarget s') ∧
      (s.ch.hpc = .retargeted → step s = chAck s')) ∧
    (s.env.sched = .app :: turns → s.flt.fault = false → s.ch.inHandler = true → step s = .next s')

/-- 00 R7, R8, R10: when each agent's step is enabled. With a bound on `IRQ_MAX_DEFER`, APP has no step once that
many of its steps have passed with the interrupt deliverable (log 11). The unit primitives are actions too (30 R100);
no turn takes one by itself (00 R14), and each does what the function its micro-step calls does (log 23). -/
def Obligations.EnablingConditions : Prop :=
  ∀ s : State,
    (actionOf .sau s = .sauWord ↔ s.sau.en = true) ∧
    (actionOf .te s = .teCopy ↔ s.te.busy = true ∧ s.sau.rxq ≠ []) ∧
    (actionOf .irq s ≠ .idle ↔ (s.irq.pend = true ∧ s.irq.en = true ∧ s.ch.inHandler = false) ∨
      (s.ch.inHandler = true ∧ s.ch.hpc ≠ .idle)) ∧
    (s.flt.fault = false → (∃ i, actionOf .app s = .micro i) →
      s.ch.inHandler = false ∧ s.cmd.op ≠ .none ∧
      ¬(s.cmd.op = .getbuf ∧ s.cmd.cpc.toNat = 2 ∧ s.ses.active = s.cmd.gbA0) ∧
      ¬(s.cmd.op = .record ∧ s.cmd.cpc.toNat = 2 ∧ s.sau.rxq = [])) ∧
    (s.flt.fault = false → (∃ op, actionOf .app s = .host op) → s.ch.inHandler = false ∧ s.cmd.op = .none) ∧
    (∀ b, s.par.irqMaxDefer = some b → b ≤ s.env.irqDefer → s.irq.pend = true → s.irq.en = true →
      s.flt.fault = false → actionOf .app s = .idle) ∧
    (∀ t, (actionOf t s).isPrimitive = false) ∧
    (s.flt.fault = false →
      (∀ unit dpin cpin freq,
        perform (.sauConfig unit dpin cpin freq) s = .next (sauConfig unit dpin cpin freq s)) ∧
      perform .sauClear s = .next (sauClear s) ∧ perform .sauRestart s = .next (sauRestart s) ∧
      perform .sauEnable s = .next (sauEnable s) ∧ perform .sauDisable s = .next (sauDisable s) ∧
      (∀ w t, sauPop s = some (w, t) → perform .sauPop s = .next t) ∧
      perform .teClaim s = .next (teClaim s) ∧
      (∀ a n t, teArm a n s = some t → perform (.teArm a n) s = .next t) ∧
      (∀ a t, teRetrigger a s = some t → perform (.teRetrigger a) s = .next t) ∧
      (s.te.busy = true → ∀ a n, perform (.teArm a n) s = .next (faulted .teMisuse s) ∧
        perform (.teRetrigger a) s = .next (faulted .teMisuse s)) ∧
      perform .teAbort s = .next (teAbort s) ∧ perform .teAck s = .next (teAck s))

/-- The instruction a word of the opcode table decodes to is the one the next step runs once it is placed, wherever
the register window lies (the model's own numbering and placing: log 9, 17). -/
def Obligations.PlacedWordRuns : Prop :=
  ∀ (s : State) (nbits w : Nat) (i : Instr),
    HostMayAct s → deferSpent s = false → decodeTableWord nbits w = some i →
    step (s.withFetchWord nbits w) = exec i { s with env := { s.env with
      irqDefer := s.env.irqDefer + if s.irq.pend = true ∧ s.irq.en = true then 1 else 0 } }

/-- 00 R9, the only liveness assumption, and what the spec says follows from it. In every weakly fair run that goes on
without a reset (log 26): a completion event that is pending and enabled is eventually serviced (decision D22); a handler
that has been entered returns (42 R165); and a RECORD that is storing words, with the SAU enabled, the engine idle and no
event pending, ends (95 V-RC8). -/
def Obligations.FairRunsProgress : Prop :=
  ∀ (τ : Nat → Turn) (r : Nat → State), RunsBy τ r → WeaklyFair τ r → (∀ k, τ k ≠ .reset) → ∀ k,
    ((r k).irq.pend = true → (r k).irq.en = true → ∃ j ≥ k, (r j).ch.inHandler = true) ∧
    ((r k).ch.inHandler = true → (r k).ch.hpc ≠ .idle → ∃ j ≥ k, (r j).ch.inHandler = false) ∧
    ((r k).cmd.op = .record → (r k).cmd.cpc.toNat = 2 → (r k).cmd.recK.toNat < (r k).cfg.n.toNat →
      (r k).sau.en = true → (r k).te.busy = false → (r k).irq.pend = false → (r k).ch.inHandler = false →
      (r k).flt.fault = false → 1 ≤ (r k).par.rxqDepth → ∃ j ≥ k, (r j).cmd.op = .none)

/-! ## The register window (spec/44_host_access_and_sample_format.md) -/

/-- 44 R223: a write of a configuration register stores the value and does nothing else, in every session. -/
def Obligations.WriteConfigRegister : Prop :=
  ∀ (s : State) (v : Word), HostMayAct s →
    exec (.wrCfgUnit v) s = .next { s with stage := { s.stage with unit := v } } ∧
    exec (.wrCfgDpin v) s = .next { s with stage := { s.stage with dpin := v } } ∧
    exec (.wrCfgCpin v) s = .next { s with stage := { s.stage with cpin := v } } ∧
    exec (.wrCfgFreq v) s = .next { s with stage := { s.stage with freq := v } } ∧
    exec (.wrCfgCount v) s = .next { s with stage := { s.stage with count := v } }

/-- 44 R224, R227: a read of a configuration register returns its staging value, a read of a view returns it (both in
`hostRd`, log 1), and neither does anything else. -/
def Obligations.ReadRegisters : Prop :=
  ∀ s : State, HostMayAct s →
    exec .rdCfgUnit s = .next { s with env := { s.env with hostRd := s.stage.unit } } ∧
    exec .rdCfgDpin s = .next { s with env := { s.env with hostRd := s.stage.dpin } } ∧
    exec .rdCfgCpin s = .next { s with env := { s.env with hostRd := s.stage.cpin } } ∧
    exec .rdCfgFreq s = .next { s with env := { s.env with hostRd := s.stage.freq } } ∧
    exec .rdCfgCount s = .next { s with env := { s.env with hostRd := s.stage.count } } ∧
    exec .rdResult s = .next { s with env := { s.env with hostRd := s.rep.result } } ∧
    exec .rdBuf0Addr s = .next { s with env := { s.env with hostRd := s.ses.buf0 } } ∧
    exec .rdBuf1Addr s = .next { s with env := { s.env with hostRd := s.ses.buf1 } } ∧
    exec .rdSwapcnt s = .next { s with env := { s.env with hostRd := s.rep.swapcnt } } ∧
    exec .rdTeWaddr s = .next { s with env := { s.env with hostRd := s.te.waddr } } ∧
    exec .rdTeRemain s = .next { s with env := { s.env with hostRd := s.te.remain } } ∧
    exec .rdRxqLevel s = .next { s with env := { s.env with hostRd := BitVec.ofNat 32 s.sau.rxq.length } }

/-- 44 R226 and the fields of 10 R41: a read of STATUS returns a word with the fields of the moment and zeros in
the reserved bits, and does nothing else; also after a fault (60 R243, log 1, 21). -/
def Obligations.ReadStatusRegister : Prop :=
  ∀ s : State, HostMayAct s ∨ s.flt.fault = true →
    ∃ w : Word, exec .rdStatus s = .next { s with env := { s.env with hostRd := w } } ∧
      w.extractLsb' 0 2 = (match s.ses.sess with | .uninit => 0#2 | .ready => 1#2 | .active => 2#2) ∧
      w.getLsbD 2 = s.ses.active ∧ w.getLsbD 3 = s.sau.en ∧ w.getLsbD 4 = s.te.busy ∧
      w.getLsbD 5 = s.irq.pend ∧ w.getLsbD 6 = s.irq.en ∧ w.getLsbD 7 = s.sau.rxovf ∧
      w.getLsbD 8 = s.flt.fault ∧ w.extractLsb' 9 3 = 0#3 ∧
      w.extractLsb' 12 4 = (match s.rep.err with | .ok => 0#4 | .outOfMemory => 1#4) ∧
      w.extractLsb' 16 8 =
        (match s.flt.cause with
          | .none => 0x00#8 | .pvPin => 0x01#8 | .pvRecordActive => 0x02#8 | .pvStopInactive => 0x03#8
          | .pvDoubleStart => 0x04#8 | .pvNotInit => 0x05#8 | .pvReinit => 0x06#8 | .pvBadParam => 0x07#8
          | .illegalCmd => 0x08#8 | .badAccess => 0x09#8 | .teMisuse => 0x0A#8) ∧
      w.extractLsb' 24 8 = 0#8

/-- 44 R223 to R227, 20 R67: the frame of the nineteen register accesses. Only a configuration write changes a
staging register, only a CMD write the command in progress and the fault record, only a read the value returned to
the host; memory and everything else stays. -/
def Obligations.RegisterAccessFrame : Prop :=
  ∀ (i : Instr) (s t : State), commandOf i = none → exec i s = .next t →
    t.par = s.par ∧ t.cfg = s.cfg ∧ t.ses = s.ses ∧ t.rep = s.rep ∧ t.sau = s.sau ∧ t.te = s.te ∧
    t.irq = s.irq ∧ t.ch = s.ch ∧ t.live = s.live ∧ (∀ x, t.mem.read? x = s.mem.read? x) ∧
    t.env = { s.env with hostRd := t.env.hostRd } ∧
    ((∃ v, i = .wrCfgUnit v ∨ i = .wrCfgDpin v ∨ i = .wrCfgCpin v ∨ i = .wrCfgFreq v ∨ i = .wrCfgCount v) →
      t.env = s.env ∧ t.cmd = s.cmd ∧ t.flt = s.flt) ∧
    ((∃ v, i = .wrCmd v) → t.env = s.env ∧ t.stage = s.stage) ∧
    ((¬∃ v, i = .wrCmd v ∨ i = .wrCfgUnit v ∨ i = .wrCfgDpin v ∨ i = .wrCfgCpin v ∨ i = .wrCfgFreq v ∨
        i = .wrCfgCount v) →
      t.stage = s.stage ∧ t.cmd = s.cmd ∧ t.flt = s.flt)

/-! ## Commands (spec/43_controller_commands.md) -/

/-- 70 R284: which command is legal in which session. The check step of an illegal entry faults with the cause
shown; of a legal one the command goes on (INIT with legal parameters). -/
def Obligations.CommandLegality : Prop :=
  ∀ s : State,
    (AtMicroStep .init 0 s → s.ses.sess ≠ .uninit → exec .init s = .next (faulted .pvReinit s)) ∧
    (AtMicroStep .init 0 s → s.ses.sess = .uninit → InitLegal s.par s.stage →
      exec .init s = .next { s with cmd := { s.cmd with cpc := 1#32 } }) ∧
    (AtMicroStep .start 0 s → exec .start s =
      match s.ses.sess with
      | .uninit => .next (faulted .pvNotInit s)
      | .ready => .next { s with cmd := { s.cmd with cpc := 1#32 } }
      | .active => .next (faulted .pvDoubleStart s)) ∧
    (AtMicroStep .stop 0 s → exec .stop s =
      match s.ses.sess with
      | .uninit => .next (faulted .pvNotInit s)
      | .ready => .next (faulted .pvStopInactive s)
      | .active => .next { s with cmd := { s.cmd with cpc := 1#32 } }) ∧
    (∀ b, AtMicroStep .getbuf 0 s → s.cmd.b = b → exec (.getbuf b) s =
      match s.ses.sess with
      | .uninit => .next (faulted .pvNotInit s)
      | .ready | .active => .next { s with cmd := { s.cmd with cpc := if b = true then 1#32 else 3#32 } }) ∧
    (AtMicroStep .record 0 s → exec .record s =
      match s.ses.sess with
      | .uninit => .next (faulted .pvNotInit s)
      | .ready => .next { s with cmd := { s.cmd with cpc := 1#32 } }
      | .active => .next (faulted .pvRecordActive s))

/-- 60 R245 with 43 R185: I0 reports the first cause in the order PV_REINIT, PV_BAD_PARAM, PV_PIN. -/
def Obligations.InitChecksInOrder : Prop :=
  ∀ s : State, AtMicroStep .init 0 s →
    (s.ses.sess ≠ .uninit → exec .init s = .next (faulted .pvReinit s)) ∧
    (s.ses.sess = .uninit →
      (s.stage.count.toNat = 0 ∨ 2 ^ 30 - 1 < s.stage.count.toNat ∨ s.stage.freq = 0#32 ∨
        s.par.numSauUnits ≤ s.stage.unit.toNat) →
      exec .init s = .next (faulted .pvBadParam s)) ∧
    (s.ses.sess = .uninit → 1 ≤ s.stage.count.toNat → s.stage.count.toNat ≤ 2 ^ 30 - 1 → s.stage.freq ≠ 0#32 →
      s.stage.unit.toNat < s.par.numSauUnits →
      (s.par.numPins - 1 ≤ s.stage.cpin.toNat ∨ s.par.numPins ≤ s.stage.dpin.toNat ∨
        s.stage.dpin = s.stage.cpin ∨ s.stage.dpin = s.stage.cpin + 1#32) →
      exec .init s = .next (faulted .pvPin s))

/-- 43 R185: the micro-steps I1 to I7 of INIT, with what the allocator answers next at I1 and I2
(the model's list of answers: log 4). -/
def Obligations.InitMicroSteps : Prop :=
  ∀ (s : State) (rest : List (Option Word)),
    (AtMicroStep .init 1 s → s.env.allocs = none :: rest →
      exec .init s = .next { s with
        rep := { s.rep with err := .outOfMemory }
        cmd := { s.cmd with op := .none, cpc := 0#32 }
        env := { s.env with allocs := rest } }) ∧
    (∀ a, AtMicroStep .init 1 s → s.env.allocs = some a :: rest →
      AllocAllows s.par s.live (4 * s.stage.count.toNat) a →
      exec .init s = .next { s with
        ses := { s.ses with buf0 := a }
        live := { base := a, size := 4 * s.stage.count.toNat } :: s.live
        cmd := { s.cmd with cpc := 2#32 }
        env := { s.env with allocs := rest } }) ∧
    (AtMicroStep .init 2 s → s.env.allocs = none :: rest →
      exec .init s = .next { s with
        ses := { s.ses with buf0 := 0#32 }
        live := s.live.filter fun r => r.base ≠ s.ses.buf0
        rep := { s.rep with err := .outOfMemory }
        cmd := { s.cmd with op := .none, cpc := 0#32 }
        env := { s.env with allocs := rest } }) ∧
    (∀ a, AtMicroStep .init 2 s → s.env.allocs = some a :: rest →
      AllocAllows s.par s.live (4 * s.stage.count.toNat) a →
      exec .init s = .next { s with
        ses := { s.ses with buf1 := a }
        live := { base := a, size := 4 * s.stage.count.toNat } :: s.live
        cmd := { s.cmd with cpc := 3#32 }
        env := { s.env with allocs := rest } }) ∧
    (AtMicroStep .init 3 s → RegionOk s.par s.ses.buf0 s.stage.count.toNat →
      RegionOk s.par s.ses.buf1 s.stage.count.toNat →
      ∃ m, exec .init s = .next { s with mem := m, cmd := { s.cmd with cpc := 4#32 } } ∧
        (∀ k < s.stage.count.toNat,
          HoldsWord m (s.ses.buf0.toNat + 4 * k) 0#32 ∧ HoldsWord m (s.ses.buf1.toNat + 4 * k) 0#32) ∧
        (∀ x, (x < s.ses.buf0.toNat ∨ s.ses.buf0.toNat + 4 * s.stage.count.toNat ≤ x) →
          (x < s.ses.buf1.toNat ∨ s.ses.buf1.toNat + 4 * s.stage.count.toNat ≤ x) → m.read? x = s.mem.read? x)) ∧
    (AtMicroStep .init 4 s → exec .init s = .next { s with
      cfg := { unit := s.stage.unit, dpin := s.stage.dpin, cpin := s.stage.cpin, wspin := s.stage.cpin + 1#32,
               freq := s.stage.freq, n := s.stage.count }
      cmd := { s.cmd with cpc := 5#32 } }) ∧
    (AtMicroStep .init 5 s → exec .init s = .next { s with
      te := { busy := false, waddr := 0#32, remain := 0#32, reload := 0#32 }
      cmd := { s.cmd with cpc := 6#32 } }) ∧
    (AtMicroStep .init 6 s → exec .init s = .next { s with
      irq := { s.irq with en := true }
      cmd := { s.cmd with cpc := 7#32 } }) ∧
    (AtMicroStep .init 7 s → exec .init s = .next { s with
      ses := { s.ses with active := false, sess := .ready }
      rep := { s.rep with swapcnt := 0#32, err := .ok }
      cmd := { s.cmd with op := .none, cpc := 0#32 } })

/-- 43 R185: INIT without a session, with legal parameters and two allowed answers of the allocator, gives a ready
session: both buffers zero-filled, the configuration latched, the engine claimed, the interrupt enabled, and no
other byte of memory changed. Nine application steps: the CMD write and I0 to I7. -/
def Obligations.InitGivesReadySession : Prop :=
  ∀ (s : State) (a0 a1 : Word) (rest : List (Option Word)),
    HostMayAct s → s.ses.sess = .uninit → InitLegal s.par s.stage → s.env.allocs = some a0 :: some a1 :: rest →
    AllocAllows s.par s.live (4 * s.stage.count.toNat) a0 →
    AllocAllows s.par ({ base := a0, size := 4 * s.stage.count.toNat } :: s.live) (4 * s.stage.count.toNat) a1 →
    ∃ m, execTimes .init 9 s = .next { s with
        cfg := { unit := s.stage.unit, dpin := s.stage.dpin, cpin := s.stage.cpin, wspin := s.stage.cpin + 1#32,
                 freq := s.stage.freq, n := s.stage.count }
        ses := { sess := .ready, buf0 := a0, buf1 := a1, active := false }
        rep := { s.rep with swapcnt := 0#32, err := .ok }
        te := { busy := false, waddr := 0#32, remain := 0#32, reload := 0#32 }
        irq := { s.irq with en := true }
        cmd := { s.cmd with op := .none, b := false, cpc := 0#32 }
        mem := m
        live := { base := a1, size := 4 * s.stage.count.toNat } ::
          { base := a0, size := 4 * s.stage.count.toNat } :: s.live
        env := { s.env with allocs := rest } } ∧
      (∀ k < s.stage.count.toNat, HoldsWord m (a0.toNat + 4 * k) 0#32 ∧ HoldsWord m (a1.toNat + 4 * k) 0#32) ∧
      (∀ x, (x < a0.toNat ∨ a0.toNat + 4 * s.stage.count.toNat ≤ x) →
        (x < a1.toNat ∨ a1.toNat + 4 * s.stage.count.toNat ≤ x) → m.read? x = s.mem.read? x)

/-- 60 R241: when either allocation fails, INIT leaves exactly the state before the command but for `err`, the
command's own record of its `b`, and the allocator's history. -/
def Obligations.InitOutOfMemory : Prop :=
  ∀ (s : State) (rest : List (Option Word)), HostMayAct s → s.ses.sess = .uninit → InitLegal s.par s.stage →
    let s' := { s with
      rep := { s.rep with err := .outOfMemory }
      cmd := { s.cmd with op := .none, b := false, cpc := 0#32 }
      env := { s.env with allocs := rest } }
    (s.env.allocs = none :: rest → execTimes .init 3 s = .next s') ∧
    (∀ a0, s.env.allocs = some a0 :: none :: rest → AllocAllows s.par s.live (4 * s.stage.count.toNat) a0 →
      s.ses.buf0 = 0#32 → (∀ r ∈ s.live, 4 ≤ r.size) → execTimes .init 4 s = .next s')

/-- 43 R188: the micro-steps S0 to S4 of START, each one `exec` of the command (log 8). -/
def Obligations.StartMicroSteps : Prop :=
  ∀ s : State,
    (AtMicroStep .start 0 s → s.ses.sess = .uninit → exec .start s = .next (faulted .pvNotInit s)) ∧
    (AtMicroStep .start 0 s → s.ses.sess = .active → exec .start s = .next (faulted .pvDoubleStart s)) ∧
    (AtMicroStep .start 0 s → s.ses.sess = .ready → exec .start s = .next { s with cmd := { s.cmd with cpc := 1#32 } }) ∧
    (AtMicroStep .start 1 s → exec .start s = .next { s with
      ses := { s.ses with active := false, sess := .active }
      rep := { s.rep with swapcnt := 0#32 }
      cmd := { s.cmd with cpc := 2#32 } }) ∧
    (AtMicroStep .start 2 s → s.te.busy = false → exec .start s = .next { s with
      te := { busy := true, waddr := s.ses.buf0, remain := s.cfg.n, reload := s.cfg.n }
      cmd := { s.cmd with cpc := 3#32 } }) ∧
    (AtMicroStep .start 2 s → s.te.busy = true → exec .start s = .next (faulted .teMisuse s)) ∧
    (AtMicroStep .start 3 s → exec .start s = .next { s with
      sau := { s.sau with rxq := [], phase := false }
      cmd := { s.cmd with cpc := 4#32 } }) ∧
    (AtMicroStep .start 4 s → exec .start s = .next { s with
      sau := { s.sau with en := true }
      rep := { s.rep with err := .ok }
      cmd := { s.cmd with op := .none, cpc := 0#32 } })

/-- 43 R188: START in a ready session, with no step of another agent between its micro-steps: `active` 0, a
transfer of `cfg.n` words armed at `buf[0]`, the queue emptied, the SAU restarted and enabled. On a busy engine
(70 R293) S1 has its effect and S2 faults with TE_MISUSE. -/
def Obligations.StartArmsFirstTransfer : Prop :=
  ∀ s : State, HostMayAct s → s.ses.sess = .ready →
    (s.te.busy = false → execTimes .start 6 s = .next { s with
      ses := { s.ses with active := false, sess := .active }
      rep := { s.rep with swapcnt := 0#32, err := .ok }
      sau := { s.sau with en := true, phase := false, rxq := [] }
      te := { busy := true, waddr := s.ses.buf0, remain := s.cfg.n, reload := s.cfg.n }
      cmd := { s.cmd with op := .none, b := false, cpc := 0#32 } }) ∧
    (s.te.busy = true → execTimes .start 4 s = .next { s with
      ses := { s.ses with active := false, sess := .active }
      rep := { s.rep with swapcnt := 0#32 }
      flt := { fault := true, cause := .teMisuse }
      cmd := { s.cmd with op := .none, b := false, cpc := 0#32 } })

/-- 43 R191: the micro-steps T0 to T2 of STOP, and STOP of an active session with no step of another agent between
them: SAU disabled, transfer aborted, session ready; the queue, `active` and a pending event stay, and so do the engine's
address and counts (41 R144, decision D19: log 25). One `exec` is one step of the command (log 8). -/
def Obligations.StopEndsSession : Prop :=
  ∀ s : State,
    (AtMicroStep .stop 0 s → s.ses.sess = .uninit → exec .stop s = .next (faulted .pvNotInit s)) ∧
    (AtMicroStep .stop 0 s → s.ses.sess = .ready → exec .stop s = .next (faulted .pvStopInactive s)) ∧
    (AtMicroStep .stop 0 s → s.ses.sess = .active → exec .stop s = .next { s with cmd := { s.cmd with cpc := 1#32 } }) ∧
    (AtMicroStep .stop 1 s → exec .stop s = .next { s with
      sau := { s.sau with en := false }
      cmd := { s.cmd with cpc := 2#32 } }) ∧
    (AtMicroStep .stop 2 s → exec .stop s = .next { s with
      te := { s.te with busy := false }
      ses := { s.ses with sess := .ready }
      rep := { s.rep with err := .ok }
      cmd := { s.cmd with op := .none, cpc := 0#32 } }) ∧
    (HostMayAct s → s.ses.sess = .active → execTimes .stop 4 s = .next { s with
      sau := { s.sau with en := false }
      te := { s.te with busy := false }
      ses := { s.ses with sess := .ready }
      rep := { s.rep with err := .ok }
      cmd := { s.cmd with op := .none, b := false, cpc := 0#32 } })

/-- 43 R194: the micro-steps G1 to G3 of GETBUF; waiting at G2 changes nothing (log 12). The non-blocking form, with no
step of another agent between, returns the stable buffer `buf[!active]` and clears `swapcnt`. -/
def Obligations.GetbufReturnsStableBuffer : Prop :=
  ∀ (s : State) (b : Bool),
    (AtMicroStep .getbuf 1 s → s.cmd.b = b → exec (.getbuf b) s = .next { s with
      cmd := { s.cmd with gbA0 := s.ses.active, cpc := 2#32 } }) ∧
    (AtMicroStep .getbuf 2 s → s.cmd.b = b → exec (.getbuf b) s =
      if s.ses.active = s.cmd.gbA0 then .next s else .next { s with cmd := { s.cmd with cpc := 3#32 } }) ∧
    (AtMicroStep .getbuf 3 s → s.cmd.b = b → exec (.getbuf b) s = .next { s with
      rep := { swapcnt := 0#32, err := .ok, result := if s.ses.active = true then s.ses.buf0 else s.ses.buf1 }
      cmd := { s.cmd with op := .none, cpc := 0#32 } }) ∧
    (HostMayAct s → s.ses.sess ≠ .uninit → execTimes (.getbuf false) 3 s = .next { s with
      rep := { swapcnt := 0#32, err := .ok, result := if s.ses.active = true then s.ses.buf0 else s.ses.buf1 }
      cmd := { s.cmd with op := .none, b := false, cpc := 0#32 } })

/-- 43 R198: the micro-steps K1 to K3 of RECORD. K2 moves one word from the queue to word `rec_k` of buffer 0 and
stays until `cfg.n` words are stored; on an empty queue it changes nothing (log 12). -/
def Obligations.RecordMicroSteps : Prop :=
  ∀ s : State,
    (AtMicroStep .record 1 s → exec .record s = .next { s with
      sau := { s.sau with en := true, phase := false
                          rxq := if s.par.recordClearsRxq = true then [] else s.sau.rxq }
      cmd := { s.cmd with recK := 0#32, cpc := 2#32 } }) ∧
    (AtMicroStep .record 2 s → s.sau.rxq = [] → exec .record s = .next s) ∧
    (∀ w ws, AtMicroStep .record 2 s → s.sau.rxq = w :: ws → RegionOk s.par s.ses.buf0 s.cfg.n.toNat →
      s.cmd.recK.toNat < s.cfg.n.toNat →
      ∃ m, exec .record s = .next { s with
          sau := { s.sau with rxq := ws }
          mem := m
          cmd := { s.cmd with
            recK := s.cmd.recK + 1#32
            cpc := if s.cmd.recK.toNat + 1 < s.cfg.n.toNat then 2#32 else 3#32 } } ∧
        HoldsWord m (s.ses.buf0.toNat + 4 * s.cmd.recK.toNat) w ∧
        SameOutside s.mem m (s.ses.buf0.toNat + 4 * s.cmd.recK.toNat) 4) ∧
    (AtMicroStep .record 3 s → exec .record s = .next { s with
      sau := { s.sau with en := false }
      rep := { s.rep with result := s.ses.buf0, err := .ok }
      cmd := { s.cmd with op := .none, cpc := 0#32 } })

/-- 43 R198 with 70 R292: RECORD, with at least `cfg.n` words already in the queue, RECORD_CLEARS_RXQ false and no
step of another agent between its micro-steps, stores exactly those `cfg.n` words in order into buffer 0, leaves the
rest in the queue, changes no other byte, and returns buffer 0. -/
def Obligations.RecordStoresQueuedWords : Prop :=
  ∀ s : State, HostMayAct s → s.ses.sess = .ready → s.par.recordClearsRxq = false → 1 ≤ s.cfg.n.toNat →
    RegionOk s.par s.ses.buf0 s.cfg.n.toNat → s.cfg.n.toNat ≤ s.sau.rxq.length →
    ∃ m, execTimes .record (s.cfg.n.toNat + 4) s = .next { s with
        sau := { s.sau with en := false, phase := false, rxq := s.sau.rxq.drop s.cfg.n.toNat }
        rep := { s.rep with result := s.ses.buf0, err := .ok }
        mem := m
        cmd := { s.cmd with op := .none, b := false, cpc := 0#32, recK := s.cfg.n } } ∧
      (∀ k w, k < s.cfg.n.toNat → s.sau.rxq[k]? = some w → HoldsWord m (s.ses.buf0.toNat + 4 * k) w) ∧
      SameOutside s.mem m s.ses.buf0.toNat (4 * s.cfg.n.toNat)

/-- 43 R188, R191, R194, R200: the frame of START, STOP and GETBUF, which store nothing: what no step of each of
them changes. -/
def Obligations.NonStoringCommandsFrame : Prop :=
  ∀ (i : Instr) (s t : State), i = .start ∨ i = .stop ∨ i = .getbuf false ∨ i = .getbuf true → exec i s = .next t →
    t.par = s.par ∧ t.stage = s.stage ∧ t.cfg = s.cfg ∧ t.ses.buf0 = s.ses.buf0 ∧ t.ses.buf1 = s.ses.buf1 ∧
    t.sau.rxovf = s.sau.rxovf ∧ t.te.reload = (if i = .start ∧ s.cmd.cpc.toNat = 2 then t.te.reload else s.te.reload) ∧
    t.irq = s.irq ∧ t.ch = s.ch ∧ t.live = s.live ∧ t.env = s.env ∧ (∀ x, t.mem.read? x = s.mem.read? x) ∧
    (i = .start → t.rep.result = s.rep.result ∧ t.cmd.gbA0 = s.cmd.gbA0 ∧ t.cmd.recK = s.cmd.recK) ∧
    (i = .stop → t.ses.active = s.ses.active ∧ t.sau.phase = s.sau.phase ∧ t.sau.rxq = s.sau.rxq ∧
      t.te.waddr = s.te.waddr ∧ t.te.remain = s.te.remain ∧ t.rep.result = s.rep.result ∧
      t.rep.swapcnt = s.rep.swapcnt ∧ t.cmd.gbA0 = s.cmd.gbA0 ∧ t.cmd.recK = s.cmd.recK) ∧
    (i = .getbuf false ∨ i = .getbuf true → t.ses = s.ses ∧ t.sau = s.sau ∧ t.te = s.te ∧ t.cmd.recK = s.cmd.recK)

/-- 43 R185, R198, R200: the frame of INIT and RECORD. INIT stores at I3 only, into words of the two buffers at the
addresses it computes; RECORD at K2 only, into word `rec_k` of buffer 0. -/
def Obligations.StoringCommandsFrame : Prop :=
  ∀ s t : State,
    (exec .init s = .next t →
      t.par = s.par ∧ t.stage = s.stage ∧ t.sau = s.sau ∧ t.irq.pend = s.irq.pend ∧ t.ch = s.ch ∧
      t.rep.result = s.rep.result ∧ t.cmd.gbA0 = s.cmd.gbA0 ∧ t.cmd.recK = s.cmd.recK ∧
      t.env = { s.env with allocs := t.env.allocs, drawn := t.env.drawn } ∧
      (s.cmd.cpc.toNat ≠ 3 → ∀ x, t.mem.read? x = s.mem.read? x) ∧
      ∀ x, (∀ k < s.stage.count.toNat,
          (x < (wordAddr s.ses.buf0 k).toNat ∨ (wordAddr s.ses.buf0 k).toNat + 4 ≤ x) ∧
          (x < (wordAddr s.ses.buf1 k).toNat ∨ (wordAddr s.ses.buf1 k).toNat + 4 ≤ x)) →
        t.mem.read? x = s.mem.read? x) ∧
    (exec .record s = .next t →
      t.par = s.par ∧ t.stage = s.stage ∧ t.cfg = s.cfg ∧ t.ses = s.ses ∧ t.te = s.te ∧ t.irq = s.irq ∧
      t.ch = s.ch ∧ t.live = s.live ∧ t.env = s.env ∧ t.sau.rxovf = s.sau.rxovf ∧
      t.rep.swapcnt = s.rep.swapcnt ∧ t.cmd.gbA0 = s.cmd.gbA0 ∧
      (s.cmd.cpc.toNat ≠ 2 → ∀ x, t.mem.read? x = s.mem.read? x) ∧
      SameOutside s.mem t.mem (wordAddr s.ses.buf0 s.cmd.recK.toNat).toNat 4)

/-! ## The SAU and the Transfer Engine (spec/40_sau.md, spec/41_transfer_engine.md) -/

/-- 40 R126, R127, R128: one completed word. The next word of the stream, any word where the stream is not decided (log 3),
goes to the tail of the queue, or is discarded with `rxovf` set when the queue is full; the phase is complemented;
nothing else changes. -/
def Obligations.SauWordPushes : Prop :=
  ∀ s : State, s.flt.fault = false →
    ∃ w : Word, (∀ x xs, s.env.mic = x :: xs → w = x) ∧
      sauWord s = .next { s with
        sau := if s.sau.rxq.length < s.par.rxqDepth
          then { s.sau with rxq := s.sau.rxq ++ [w], phase := !s.sau.phase }
          else { s.sau with rxovf := true, phase := !s.sau.phase }
        env := { s.env with
          mic := s.env.mic.tail
          micI := s.env.micI + 1
          drawn := s.env.drawn + if s.env.mic.isEmpty = true then 1 else 0 } }

/-- 40 R120 to R125: the six primitives of the SAU. -/
def Obligations.SauPrimitives : Prop :=
  ∀ s : State,
    (∀ unit dpin cpin freq, sauConfig unit dpin cpin freq s = { s with
      cfg := { unit := unit, dpin := dpin, cpin := cpin, wspin := cpin + 1#32, freq := freq, n := s.cfg.n } }) ∧
    sauClear s = { s with sau := { s.sau with rxq := [] } } ∧
    sauRestart s = { s with sau := { s.sau with phase := false } } ∧
    sauEnable s = { s with sau := { s.sau with en := true } } ∧
    sauDisable s = { s with sau := { s.sau with en := false } } ∧
    (∀ w ws, s.sau.rxq = w :: ws → sauPop s = some (w, { s with sau := { s.sau with rxq := ws } })) ∧
    (dreq s = true ↔ 0 < s.sau.rxq.length)

/-- 41 R141 to R144, R147: the five primitives of the Transfer Engine. Arming or re-triggering a busy engine has no
effect but the fault TE_MISUSE of the step that does it: START's S2, or `CH.RETARGET`. -/
def Obligations.TransferEnginePrimitives : Prop :=
  ∀ s : State,
    teClaim s = { s with te := { busy := false, waddr := 0#32, remain := 0#32, reload := 0#32 } } ∧
    (∀ a n, s.te.busy = false →
      teArm a n s = some { s with te := { busy := true, waddr := a, remain := n, reload := n } }) ∧
    (∀ a, s.te.busy = false →
      teRetrigger a s = some { s with te := { s.te with busy := true, waddr := a, remain := s.te.reload } }) ∧
    (s.te.busy = true → (∀ a n, teArm a n s = none) ∧ ∀ a, teRetrigger a s = none) ∧
    (s.te.busy = true → AtMicroStep .start 2 s → exec .start s = .next (faulted .teMisuse s)) ∧
    (s.te.busy = true → s.flt.fault = false → chRetarget s = .next (faulted .teMisuse s)) ∧
    teAbort s = { s with te := { s.te with busy := false } } ∧
    teAck s = { s with irq := { s.irq with pend := false } }

/-- 41 R145: when the engine has a step, and what it does, at any address that `MemWrite` takes (20 R63; no other
address comes up, `EngineStaysInBuffer`): one word popped and stored at `te_waddr`, the address four on and the count
one less; the last word frees the engine and raises the event, in the same step; nothing else changes. -/
def Obligations.TransferEngineCopies : Prop :=
  ∀ (s : State) (w : Word) (ws : List Word),
    (actionOf .te s = .teCopy ↔ s.te.busy = true ∧ 0 < s.sau.rxq.length) ∧
    (s.flt.fault = false → s.te.busy = true → s.sau.rxq = w :: ws → s.te.waddr.toNat % 4 = 0 →
    s.par.dataBase.toNat ≤ s.te.waddr.toNat → s.te.waddr.toNat + 4 ≤ s.par.dataBase.toNat + s.par.dataSize →
    ∃ m, teCopy s = .next { s with
        sau := { s.sau with rxq := ws }
        mem := m
        te := { busy := if s.te.remain = 1#32 then false else true
                waddr := s.te.waddr + 4#32
                remain := s.te.remain - 1#32
                reload := s.te.reload }
        irq := { s.irq with pend := if s.te.remain = 1#32 then true else s.irq.pend } } ∧
      HoldsWord m s.te.waddr.toNat w ∧ SameOutside s.mem m s.te.waddr.toNat 4)

/-- 41 R145 (c), R146: with the words of a whole transfer in the queue, exactly that many TE steps copy them in
order to consecutive words from the armed address, change no other byte, and complete the transfer. -/
def Obligations.TransferCopiesQueueInOrder : Prop :=
  ∀ (s : State) (rest : List Turn),
    s.flt.fault = false → s.te.busy = true → 1 ≤ s.te.remain.toNat →
    RegionOk s.par s.te.waddr s.te.remain.toNat → s.te.remain.toNat ≤ s.sau.rxq.length →
    s.env.sched = List.replicate s.te.remain.toNat .te ++ rest →
    ∃ m, stepTimes s.te.remain.toNat s = .next { s with
        sau := { s.sau with rxq := s.sau.rxq.drop s.te.remain.toNat }
        mem := m
        te := { busy := false, waddr := wordAddr s.te.waddr s.te.remain.toNat, remain := 0#32
                reload := s.te.reload }
        irq := { s.irq with pend := true }
        env := { s.env with sched := rest } } ∧
      (∀ k w, k < s.te.remain.toNat → s.sau.rxq[k]? = some w → HoldsWord m (s.te.waddr.toNat + 4 * k) w) ∧
      SameOutside s.mem m s.te.waddr.toNat (4 * s.te.remain.toNat)

/-- 41 R146, R148: in every state of the block's invariant, the engine's next store is to a word of one of the two
buffers, the one its transfer has reached, and changes no byte outside that buffer; the step touches neither the
session nor the swap count. -/
def Obligations.EngineStaysInBuffer : Prop :=
  ∀ s : State, BlockInv s → s.flt.fault = false → s.te.busy = true → s.sau.rxq ≠ [] →
    ∃ (i : Bool) (t : State),
      s.te.waddr.toNat = (s.ses.buf i).toNat + 4 * (s.cfg.n.toNat - s.te.remain.toNat) ∧
      1 ≤ s.te.remain.toNat ∧ s.te.remain.toNat ≤ s.cfg.n.toNat ∧
      teCopy s = .next t ∧ t.ses = s.ses ∧ t.rep = s.rep ∧ SameOutside s.mem t.mem s.te.waddr.toNat 4 ∧
      SameOutside s.mem t.mem (s.ses.buf i).toNat (4 * s.cfg.n.toNat)

/-! ## The Completion Handler (spec/42_completion_handler.md) -/

/-- 42 R161 to R164, 60 R253, R254: when each of the four steps of the handler is enabled, and what it does; the swap
count saturates; a busy engine makes the retarget fault with TE_MISUSE and leaves the handler where it is. -/
def Obligations.HandlerSteps : Prop :=
  ∀ s : State, s.flt.fault = false →
    (actionOf .irq s = .chEnter ↔ s.irq.pend = true ∧ s.irq.en = true ∧ s.ch.inHandler = false) ∧
    (actionOf .irq s = .chPublish ↔ s.ch.inHandler = true ∧ s.ch.hpc = .entered) ∧
    (actionOf .irq s = .chRetarget ↔ s.ch.inHandler = true ∧ s.ch.hpc = .published) ∧
    (actionOf .irq s = .chAck ↔ s.ch.inHandler = true ∧ s.ch.hpc = .retargeted) ∧
    chEnter s = .next { s with ch := { inHandler := true, hpc := .entered, next := !s.ses.active } } ∧
    chPublish s = .next { s with
      ses := { s.ses with active := s.ch.next }
      rep := { s.rep with
        swapcnt := if s.rep.swapcnt = 0xFFFFFFFF#32 then 0xFFFFFFFF#32 else s.rep.swapcnt + 1#32 }
      ch := { s.ch with hpc := .published } } ∧
    (s.te.busy = false → chRetarget s = .next { s with
      te := { s.te with
        busy := true
        waddr := if s.ch.next = true then s.ses.buf1 else s.ses.buf0
        remain := s.te.reload }
      ch := { s.ch with hpc := .retargeted } }) ∧
    (s.te.busy = true → chRetarget s = .next (faulted .teMisuse s)) ∧
    chAck s = .next { s with
      irq := { s.irq with pend := false }
      ch := { s.ch with inHandler := false, hpc := .idle } }

/-- 42 R160 to R166: with an interrupt pending and enabled, the engine idle and no step of another agent between,
one invocation of the handler is four steps that complement `active`, count the swap, aim a whole new transfer at the
buffer that has just become active, and acknowledge the event. -/
def Obligations.HandlerInvocationSwaps : Prop :=
  ∀ (s : State) (rest : List Turn),
    s.flt.fault = false → s.ch.inHandler = false → s.irq.pend = true → s.irq.en = true → s.te.busy = false →
    s.env.sched = .irq :: .irq :: .irq :: .irq :: rest →
    stepTimes 4 s = .next { s with
      ses := { s.ses with active := !s.ses.active }
      rep := { s.rep with
        swapcnt := if s.rep.swapcnt = 0xFFFFFFFF#32 then 0xFFFFFFFF#32 else s.rep.swapcnt + 1#32 }
      te := { s.te with
        busy := true
        waddr := if s.ses.active = true then s.ses.buf0 else s.ses.buf1
        remain := s.te.reload }
      irq := { s.irq with pend := false }
      ch := { inHandler := false, hpc := .idle, next := !s.ses.active }
      env := { s.env with sched := rest, irqDefer := 0 } }

/-- 42 R161, 20 R79: nobody writes `active` between `CH.ENTER` and `CH.PUBLISH`, so every publish flips it. Every
step keeps that. -/
def Obligations.HandlerSnapshotKept : Prop :=
  ∀ s t : State, BlockInv s → HandlerSnapshot s → step s = .next t → HandlerSnapshot t

/-- 70 R290: a transfer completed inside the handler loses its event: the acknowledge clears it, and no later turn of
the interrupt or of the engine does anything. -/
def Obligations.LostCompletionEvent : Prop :=
  ∀ (s : State) (turns : List Turn), LosesEvent s → s.flt.fault = false → s.irq.pend = true →
    s.env.sched = .irq :: turns →
    ∃ t, step s = .next t ∧ t.ch.inHandler = false ∧ t.irq.pend = false ∧ t.te.busy = false ∧
      t.ses = s.ses ∧ t.sau = s.sau ∧ actionOf .irq t = .idle ∧ actionOf .te t = .idle

/-- 70 R294: a blocking GETBUF that waits while no completion event is pending and none can come waits for ever:
every step but a reset keeps it waiting, and none of them stops the machine. -/
def Obligations.BlockingGetbufHangs : Prop :=
  ∀ s : State, Hung s → NoReset s → ∃ t, step s = .next t ∧ Hung t

/-! ## Faults and reset (spec/60_exceptions.md, spec/70_reset_and_hazards.md) -/

/-- 60 R243: taking a fault records it with its cause if none is recorded, ends the command, and changes nothing
else. After it every instruction but RD STATUS and every autonomous step stops by name (log 7: the spec gives them no
behaviour). -/
def Obligations.FaultMechanism : Prop :=
  ∀ s : State,
    (∀ c, takeFault c s = { s with
      flt := if s.flt.fault = true then s.flt else { fault := true, cause := c }
      cmd := { s.cmd with op := .none, cpc := 0#32 } }) ∧
    (s.flt.fault = true →
      (∀ i, i ≠ .rdStatus → exec i s = .fault .afterFault) ∧ sauWord s = .fault .afterFault ∧
      teCopy s = .fault .afterFault ∧ chEnter s = .fault .afterFault ∧ chPublish s = .fault .afterFault ∧
      chRetarget s = .fault .afterFault ∧ chAck s = .fault .afterFault)

/-- 10 R32: a fault is recorded with its cause if it is the first, a later one changes nothing, and no step but a
reset changes a record once it is made: `fault` is sticky and `fault_cause` keeps the cause of the first fault. -/
def Obligations.FaultRecordKept : Prop :=
  ∀ s : State,
    (∀ c, s.flt.fault = false → (takeFault c s).flt = { fault := true, cause := c }) ∧
    (∀ c, s.flt.fault = true → (takeFault c s).flt = s.flt) ∧
    (∀ t, s.flt.fault = true → NoReset s → step s = .next t → t.flt = s.flt)

/-- 70 R281: reset is the only event that clears `fault`, `rxovf` and `irq_en`, and the only one that returns the
session to UNINIT. -/
def Obligations.StickyUntilReset : Prop :=
  ∀ s t : State, NoReset s → step s = .next t →
    (s.flt.fault = true → t.flt.fault = true) ∧ (s.sau.rxovf = true → t.sau.rxovf = true) ∧
    (s.irq.en = true → t.irq.en = true) ∧ (s.ses.sess ≠ .uninit → t.ses.sess ≠ .uninit)

/-- 10 R50: after reset every register and flag is 0, the session UNINIT, the queue empty, no command in progress,
no region live; every byte of memory reads as a free value; and no agent has a step until the host has an
operation. -/
def Obligations.ResetValues : Prop :=
  ∀ p : Params,
    let s := State.resetOf p
    s.stage = ⟨0#32, 0#32, 0#32, 0#32, 0#32⟩ ∧ s.cfg = ⟨0#32, 0#32, 0#32, 0#32, 0#32, 0#32⟩ ∧
    s.ses = ⟨.uninit, 0#32, 0#32, false⟩ ∧ s.rep = ⟨0#32, 0#32, .ok⟩ ∧ s.flt = ⟨false, .none⟩ ∧
    s.sau = ⟨false, false, [], false⟩ ∧ s.te = ⟨false, 0#32, 0#32, 0#32⟩ ∧ s.irq = ⟨false, false⟩ ∧
    s.ch = ⟨false, .idle, false⟩ ∧ s.cmd = ⟨.none, 0, false, false, 0#32⟩ ∧ s.live = [] ∧
    s.env.micI = 0 ∧ (∀ x, s.mem.byte x = Config.powerUpByte x) ∧ statusWord s = 0#32 ∧ enabledTurns s = [] ∧ s.par = p

/-- 70 R280 to R282: the reset input, asserted in any state, gives the reset state but for the bytes of memory; what
the environment and the host still have in hand stays (log 14). -/
def Obligations.ResetEvent : Prop :=
  ∀ (s : State) (turns : List Turn), s.env.sched = .reset :: turns →
    step s = .next { State.resetOf s.par with
      mem := s.mem
      env := { s.env with sched := turns, micI := 0, irqDefer := 0 } }

/-- 70 R298: in a quiescent state no agent but the host has an enabled step; without a host operation nobody has,
and a step changes nothing. -/
def Obligations.QuiescentStatesIdle : Prop :=
  ∀ s : State, Quiescent s →
    actionOf .irq s = .idle ∧ actionOf .sau s = .idle ∧ actionOf .te s = .idle ∧
    (actionOf .app s = .idle ∨ ∃ op rest, s.env.hostOps = op :: rest ∧ actionOf .app s = .host op) ∧
    (s.env.hostOps = [] → enabledTurns s = [] ∧ (s.env.sched = [] → step s = .next s))

/-! ## Data memory (spec/20_memory.md) -/

/-- 20 R61 to R63: `MemRead` and `MemWrite` are defined exactly on aligned accesses inside data memory. A read
assembles the bytes, the lowest address least significant, and extends with zeros. A write puts the low byte lowest,
changes no other byte, and keeps the canonical form; a read gives it back; of a word, the upper half is read two bytes
on. -/
def Obligations.LittleEndianMemory : Prop :=
  ∀ (p : Params) (m : Memory) (a : Word) (w : Width) (v : Word),
    ((∃ m', memWrite p m a w v = some m') ↔
      a.toNat % w.bytes = 0 ∧ p.dataBase.toNat ≤ a.toNat ∧ a.toNat + w.bytes ≤ p.dataBase.toNat + p.dataSize) ∧
    ((∃ x, memRead p m a w = some x) ↔ ∃ m', memWrite p m a w v = some m') ∧
    (∀ x, memRead p m a w = some x →
      (∀ i < w.bytes, x.extractLsb' (8 * i) 8 = m.byte (a.toNat + i)) ∧ x.toNat < 2 ^ (8 * w.bytes)) ∧
    ∀ m', memWrite p m a w v = some m' →
      (∀ i < w.bytes, m'.read? (a.toNat + i) = some (v.extractLsb' (8 * i) 8)) ∧
      SameOutside m m' a.toNat w.bytes ∧ (m.wf = true → m'.wf = true) ∧
      memRead p m' a w = some ((v.setWidth (8 * w.bytes)).setWidth 32) ∧
      (w = .w4 → memRead p m' (a + 2#32) .w2 = some ((v.extractLsb' 16 16).setWidth 32))

/-- 44 R228, 20 R71: a host load or store of 1, 2 or 4 bytes, aligned and inside a buffer of a session, takes effect:
a load returns the bytes (in `hostRd`, log 1), a store changes them and no other byte. Misaligned or outside both
buffers it has no meaning and is refused by name (log 15). -/
def Obligations.HostBufferAccess : Prop :=
  ∀ (s : State) (a : Word) (w : Width) (v : Word), HostMayAct s →
    (∀ i : Bool, s.ses.sess ≠ .uninit → BuffersOk s s.cfg.n.toNat → a.toNat % w.bytes = 0 →
      (s.ses.buf i).toNat ≤ a.toNat → a.toNat + w.bytes ≤ (s.ses.buf i).toNat + 4 * s.cfg.n.toNat →
      hostLoad a w s = .next { s with env := { s.env with hostRd := s.mem.load a.toNat w.bytes } } ∧
      ∃ m, hostStore a w v s = .next { s with mem := m } ∧
        (∀ k < w.bytes, m.read? (a.toNat + k) = some (v.extractLsb' (8 * k) 8)) ∧
        SameOutside s.mem m a.toNat w.bytes) ∧
    (a.toNat % w.bytes ≠ 0 →
      hostLoad a w s = .refused .hostMisaligned ∧ hostStore a w v s = .refused .hostMisaligned) ∧
    (a.toNat % w.bytes = 0 →
      (s.ses.sess = .uninit ∨ ∀ i : Bool, a.toNat < (s.ses.buf i).toNat ∨
        (s.ses.buf i).toNat + 4 * s.cfg.n.toNat < a.toNat + w.bytes) →
      hostLoad a w s = .refused .hostOutsideBuffers ∧ hostStore a w v s = .refused .hostOutsideBuffers)

/-- 20 R70: an allocation fails, or answers an address R70 allows and makes its region live; either way nothing but
the environment's draws changes otherwise. An answer the environment has decided on is the one given, if R70 allows it
(else it counts as FAIL, log 4). -/
def Obligations.AllocatorAnswers : Prop :=
  ∀ (n : Nat) (s : State),
    (∃ (as : List (Option Word)) (d : Nat),
      let s' := { s with env := { s.env with allocs := as, drawn := d } }
      alloc n s = (none, s') ∨
      ∃ a, AllocAllows s.par s.live n a ∧ alloc n s = (some a, { s' with live := { base := a, size := n } :: s.live })) ∧
    (∀ rest, s.env.allocs = none :: rest → (alloc n s).1 = none) ∧
    (∀ a rest, s.env.allocs = some a :: rest → AllocAllows s.par s.live n a → (alloc n s).1 = some a) ∧
    (∀ a rest, s.env.allocs = some a :: rest → ¬AllocAllows s.par s.live n a → (alloc n s).1 = none)

/-- 20 R70: the live regions lie in data memory and share no byte; every step keeps that. -/
def Obligations.LiveRegionsStayDisjoint : Prop :=
  ∀ s t : State, BlockInv s → LiveOk s → step s = .next t → LiveOk t

/-! ## Invariants (spec/10_state.md rules R22 to R25, R51, R52) -/

/-- The invariants hold right after reset, whatever the parameters. -/
def Obligations.InvariantsAtReset : Prop :=
  ∀ p : Params, BlockInv (State.resetOf p) ∧ PingPong (State.resetOf p) ∧ LiveOk (State.resetOf p) ∧
    HandlerSnapshot (State.resetOf p)

/-- 10 R51 in the form every step keeps, with the canonical form of memory and 41 R146. -/
def Obligations.BlockInvKept : Prop :=
  ∀ s t : State, BlockInv s → step s = .next t → BlockInv t

/-- 10 R51 as the rule has it, from the invariant: with no INIT in progress, its clauses (a) to (e). And 10 R26: neither
`cpc` nor `rec_k` wraps; `rec_k` keeps the bound `cfg.n + 2`, and so does `cpc` but in two places, where the numbers of
43 R185 and R188 pass it (log 16): in INIT, and at START's S4 with a count of one. -/
def Obligations.BlockInvGivesRuleFiftyOne : Prop :=
  ∀ s : State, BlockInv s →
    (s.cmd.op ≠ .init →
      (s.ses.sess = .uninit → s.irq.en = false ∧ s.te.busy = false ∧ s.sau.en = false ∧ s.ses.buf0 = 0#32 ∧
        s.ses.buf1 = 0#32) ∧
      (s.ses.sess ≠ .uninit →
        s.ses.buf0.toNat % 4 = 0 ∧ s.ses.buf1.toNat % 4 = 0 ∧
        (s.ses.buf0.toNat + 4 * s.cfg.n.toNat ≤ s.ses.buf1.toNat ∨
          s.ses.buf1.toNat + 4 * s.cfg.n.toNat ≤ s.ses.buf0.toNat) ∧
        (∀ i : Bool, s.par.dataBase.toNat ≤ (s.ses.buf i).toNat ∧
          (s.ses.buf i).toNat + 4 * s.cfg.n.toNat ≤ s.par.dataBase.toNat + s.par.dataSize) ∧
        1 ≤ s.cfg.n.toNat ∧ s.cfg.n.toNat ≤ 2 ^ 30 - 1) ∧
      s.sau.rxq.length ≤ s.par.rxqDepth ∧
      (s.te.busy = true → 1 ≤ s.te.remain.toNat ∧ s.te.remain.toNat ≤ s.te.reload.toNat ∧ s.te.reload = s.cfg.n) ∧
      (s.ch.inHandler = false → s.ch.hpc = .idle)) ∧
    s.cmd.cpc.toNat ≤ 7 ∧ s.cmd.recK.toNat ≤ s.cfg.n.toNat ∧
    (s.cmd.op = .none → s.cmd.cpc.toNat = 0) ∧ (s.cmd.op = .start → s.cmd.cpc.toNat ≤ 4) ∧
    (s.cmd.op = .stop ∨ s.cmd.op = .getbuf ∨ s.cmd.op = .record → s.cmd.cpc.toNat ≤ s.cfg.n.toNat + 2) ∧
    (s.cfg.n.toNat + 2 < s.cmd.cpc.toNat →
      s.cmd.op = .init ∨ s.cmd.op = .start ∧ s.cmd.cpc.toNat = 4 ∧ s.cfg.n.toNat = 1)

/-- In the states of the invariant the machine stops only where the spec gives no behaviour: after a recorded fault
(60 R243, log 7), on a host access outside the window or, on memory, misaligned or outside the buffers (93 U17, log
15); never for want of a micro-step or of memory (log 20). -/
def Obligations.StopsAreNamed : Prop :=
  ∀ s : State, BlockInv s →
    (∀ r, step s = .fault r → r = .afterFault ∧ s.flt.fault = true) ∧
    (∀ r, step s = .refused r → r = .outsideWindow ∨ r = .hostMisaligned ∨ r = .hostOutsideBuffers)

/-- 10 R52 in the form every step keeps but a `CH.ACK` that loses a completion event (70 R290): the interrupt's turn in
a state of `LosesEvent`. -/
def Obligations.PingPongKept : Prop :=
  ∀ s t : State, BlockInv s → PingPong s → ¬(LosesEvent s ∧ (takeTurn s).1 = some .irq) → step s = .next t →
    PingPong t

/-- 10 R52 and 70 R295: while a session is active, START has finished, the handler is not running, no event is
pending and no fault recorded, the engine is armed, its write address lies inside `buf[active]` and not inside
`buf[!active]`, and its step changes no byte of the stable buffer. -/
def Obligations.EngineWritesActiveBuffer : Prop :=
  ∀ s : State, BlockInv s → PingPong s → s.ses.sess = .active → s.cmd.op ≠ .start → s.ch.inHandler = false →
    s.irq.pend = false → s.flt.fault = false →
    s.te.busy = true ∧
    (s.ses.buf s.ses.active).toNat ≤ s.te.waddr.toNat ∧
    s.te.waddr.toNat + 4 ≤ (s.ses.buf s.ses.active).toNat + 4 * s.cfg.n.toNat ∧
    (s.te.waddr.toNat + 4 ≤ (s.ses.buf (!s.ses.active)).toNat ∨
      (s.ses.buf (!s.ses.active)).toNat + 4 * s.cfg.n.toNat ≤ s.te.waddr.toNat) ∧
    (∀ t, teCopy s = .next t → ∀ x, (s.ses.buf (!s.ses.active)).toNat ≤ x →
      x < (s.ses.buf (!s.ses.active)).toNat + 4 * s.cfg.n.toNat → t.mem.read? x = s.mem.read? x)

/-- 10 R25, 42 R167: a step that changes `active` is `CH.PUBLISH`, START's S1, INIT's I7, or a reset. -/
def Obligations.ActiveHasThreeWriters : Prop :=
  ∀ s t : State, NoReset s → step s = .next t → t.ses.active ≠ s.ses.active →
    (s.ch.inHandler = true ∧ s.ch.hpc = .entered ∧ t.ses.active = s.ch.next ∧ t.ch.hpc = .published) ∨
    (s.cmd.op = .start ∧ s.cmd.cpc.toNat = 1 ∧ t.ses.active = false ∧ t.ses.sess = .active) ∨
    (s.cmd.op = .init ∧ s.cmd.cpc.toNat = 7 ∧ t.ses.active = false ∧ t.ses.sess = .ready)

/-- 10 R22, R24: once a session exists, no step but a reset changes the latched configuration or the buffers'
addresses. -/
def Obligations.ConfigFixedAfterInit : Prop :=
  ∀ s t : State, BlockInv s → s.ses.sess ≠ .uninit → NoReset s → step s = .next t →
    t.cfg = s.cfg ∧ t.ses.buf0 = s.ses.buf0 ∧ t.ses.buf1 = s.ses.buf1

/-! ## Samples (spec/44_host_access_and_sample_format.md rules R230, R231) -/

/-- 44 R230: the sample of a word is its bits [30:15] as two's complement, in -32768 to 32767; bit 31 and bits
[14:0] do not matter. -/
def Obligations.SampleExtraction : Prop :=
  ∀ w : Word,
    -32768 ≤ sample 15 w ∧ sample 15 w ≤ 32767 ∧
    sample 15 w = (if w.getLsbD 30 = true then ((w.toNat / 2 ^ 15 % 2 ^ 16 : Nat) : Int) - 65536
      else ((w.toNat / 2 ^ 15 % 2 ^ 16 : Nat) : Int)) ∧
    ∀ v : Word, v.extractLsb' 15 16 = w.extractLsb' 15 16 → sample 15 v = sample 15 w

/-- 44 R231: `sau_phase` is the number of words completed since a restart, modulo 2, so that the words alternate
between the two channels, the first on `FIRST_CHANNEL`. -/
def Obligations.ChannelsAlternate : Prop :=
  ∀ (s : State) (k : Nat) (rest : List Turn),
    s.flt.fault = false → s.sau.en = true → s.sau.phase = false →
    s.env.sched = List.replicate k .sau ++ rest →
    ∃ t, stepTimes k s = .next t ∧ t.sau.phase = decide (k % 2 = 1) ∧
      channelOf t.par t.sau.phase = channelOfWord s.par k ∧
      channelOfWord s.par 0 = s.par.firstChannel ∧
      channelOfWord s.par (k + 1) = otherChannel (channelOfWord s.par k)
end

