-- ==== Sys2Proof/Laws/Memory.lean ====
section
/-! SUPPORT. Data memory: read after write, what a store leaves alone, and that every operation keeps the
canonical form. -/

namespace Sys2Proof.Laws

open Sys2Proof Sys2Proof.Machine

@[simp] theorem read?_nil (a : Nat) : Memory.read? [] a = none := rfl

theorem read?_cons (c : Host.Cell) (m : Memory) (a : Nat) :
    Memory.read? (c :: m) a = if a = c.1 then some c.2 else Memory.read? m a := rfl

/-- A read of the address written gives the byte written. -/
@[simp] theorem read?_write_same (m : Memory) (a : Nat) (b : Byte) : (m.write a b).read? a = some b := by
  induction m with
  | nil => simp [Memory.write, read?_cons]
  | cons c m ih =>
    unfold Memory.write
    split
    · simp [read?_cons]
    · split
      · simp [read?_cons]
      · next h => simp [read?_cons, h, ih]

/-- A write leaves every other address alone. -/
theorem read?_write_ne (m : Memory) {a x : Nat} (b : Byte) (h : x ≠ a) :
    (m.write a b).read? x = m.read? x := by
  induction m with
  | nil => simp [Memory.write, read?_cons, h]
  | cons c m ih =>
    unfold Memory.write
    split
    · simp [read?_cons, h]
    · split
      · next h2 => simp [read?_cons, h, ← h2]
      · simp only [read?_cons, ih]

/-- The form of the tail, and that the head lies below it. -/
theorem wf_cons {c : Host.Cell} {m : Memory} :
    Memory.wf (c :: m) = true ↔ (∀ d ∈ m.head?, c.1 < d.1) ∧ Memory.wf m = true := by
  cases m <;> simp [Memory.wf]

/-- The first address after a write: the written one or the old first. -/
theorem head?_write (m : Memory) (a : Nat) (b : Byte) (d : Host.Cell) (h : d ∈ (m.write a b).head?) :
    d.1 = a ∨ d ∈ m.head? := by
  cases m with
  | nil => simp [Memory.write] at h; simp [← h]
  | cons c m =>
    simp only [Memory.write] at h
    split at h
    · simp at h; simp [← h]
    · split at h
      · simp at h; simp [← h]
      · exact .inr (by simpa using h)

/-- Writing a byte keeps the canonical form. -/
theorem wf_write {m : Memory} (a : Nat) (b : Byte) (h : m.wf = true) : (m.write a b).wf = true := by
  induction m with
  | nil => rfl
  | cons c m ih =>
    have hc := wf_cons.1 h
    unfold Memory.write
    split
    · next hlt => exact wf_cons.2 ⟨by simpa using hlt, h⟩
    · split
      · next heq => exact wf_cons.2 ⟨by simpa [heq] using hc.1, hc.2⟩
      · next hlt hne =>
        refine wf_cons.2 ⟨fun d hd => ?_, ih hc.2⟩
        rcases head?_write m a b d hd with h1 | h1
        · omega
        · exact hc.1 d h1

/-- Storing bytes keeps the canonical form. -/
theorem wf_store {m : Memory} (a : Nat) (v : Word) (n : Nat) (h : m.wf = true) :
    (m.store a v n).wf = true := by
  induction n generalizing m a v with
  | zero => exact h
  | succ n ih => exact ih (a + 1) (v >>> 8) (wf_write a _ h)

/-- A store of `n` bytes leaves every address outside them alone. -/
theorem read?_store_outside (m : Memory) (a : Nat) (v : Word) (n x : Nat) (h : x < a ∨ a + n ≤ x) :
    (m.store a v n).read? x = m.read? x := by
  induction n generalizing m a v with
  | zero => rfl
  | succ n ih =>
    rw [Memory.store, ih _ _ _ (by omega), read?_write_ne _ _ (by omega)]

/-- Byte `i` of a stored value is at the `i`-th address: little-endian (20 R61). -/
theorem read?_store_inside (m : Memory) (a : Nat) (v : Word) (n i : Nat) (h : i < n) :
    (m.store a v n).read? (a + i) = some ((v >>> (8 * i)).setWidth 8) := by
  induction n generalizing m a v i with
  | zero => omega
  | succ n ih =>
    cases i with
    | zero => rw [Memory.store, read?_store_outside _ _ _ _ _ (by omega)]; simp
    | succ i =>
      have := ih (m.write a (v.setWidth 8)) (a + 1) (v >>> 8) i (by omega)
      rw [Memory.store, show a + (i + 1) = a + 1 + i by omega, this, ← BitVec.shiftRight_add,
        show 8 + 8 * i = 8 * (i + 1) by omega]

/-- What a write to memory can do: it needs the access to be legal and stores the bytes. -/
theorem memWrite_eq_some {p : Params} {m m' : Memory} {a : Word} {w : Width} {v : Word} :
    memWrite p m a w v = some m' ↔ accessOk p a w.bytes = true ∧ m' = m.store a.toNat v w.bytes := by
  unfold memWrite
  split
  · next h => simp [h, eq_comm]
  · next h => simp [h]

/-- A legal write keeps the canonical form. -/
theorem wf_memWrite {p : Params} {m m' : Memory} {a : Word} {w : Width} {v : Word}
    (h : memWrite p m a w v = some m') (hm : m.wf = true) : m'.wf = true := by
  obtain ⟨-, rfl⟩ := memWrite_eq_some.1 h
  exact wf_store _ _ _ hm

/-- The zero fill keeps the canonical form. -/
theorem wf_zeroFill {p : Params} {a0 a1 : Word} {n : Nat} {m m' : Memory}
    (h : zeroFill p a0 a1 n m = some m') (hm : m.wf = true) : m'.wf = true := by
  induction n generalizing m' with
  | zero => simp only [zeroFill, Option.some.injEq] at h; exact h ▸ hm
  | succ n ih =>
    simp only [zeroFill] at h
    split at h
    · cases h
    · next m1 h1 =>
      split at h
      · cases h
      · next m2 h2 => exact wf_memWrite h (wf_memWrite h2 (ih h1))

/-- The memory of every reset state is in canonical form. -/
theorem wf_resetOf (p : Params) : (State.resetOf p).mem.wf = true := rfl

/-- Bit `k` of a load is bit `k % 8` of the byte `k / 8` places up (20 R61, R62). -/
theorem load_getLsbD (m : Memory) : ∀ (n a k : Nat), n ≤ 4 →
    (m.load a n).getLsbD k = (decide (k < 8 * n) && (m.byte (a + k / 8)).getLsbD (k % 8))
  | 0, a, k, _ => by simp [Memory.load]
  | n+1, a, k, h => by
    simp only [Memory.load, BitVec.getLsbD_or, BitVec.getLsbD_setWidth, BitVec.getLsbD_shiftLeft]
    rw [load_getLsbD m n (a+1) (k-8) (by omega)]
    by_cases hk : k < 8
    · have : k / 8 = 0 := by omega
      have h2 : k % 8 = k := by omega
      have : k < 32 := by omega
      have : k < 8*(n+1) := by omega
      simp [*]
    · have e : a + 1 + (k-8)/8 = a + k/8 := by omega
      have e2 : (k-8)%8 = k % 8 := by omega
      have : (m.byte a).getLsbD k = false := BitVec.getLsbD_of_ge _ _ (by omega)
      rw [e, e2, this]
      by_cases h3 : k < 8*(n+1)
      · have : k - 8 < 8*n := by omega
        have : k < 32 := by omega
        simp [*]
      · have : ¬ (k - 8 < 8*n) := by omega
        simp [*]

end Sys2Proof.Laws
end

