-- ==== Sys2Proof/Laws/State.lean ====
section
/-! SUPPORT. The small lemmas of the component updates: what each component is after each update. -/

namespace Sys2Proof.Laws

open Sys2Proof.Machine

@[simp] theorem setStage_par (s : State) (x : Stage) : (s.setStage x).par = s.par := rfl
@[simp] theorem setStage_stage (s : State) (x : Stage) : (s.setStage x).stage = x := rfl
@[simp] theorem setStage_cfg (s : State) (x : Stage) : (s.setStage x).cfg = s.cfg := rfl
@[simp] theorem setStage_ses (s : State) (x : Stage) : (s.setStage x).ses = s.ses := rfl
@[simp] theorem setStage_rep (s : State) (x : Stage) : (s.setStage x).rep = s.rep := rfl
@[simp] theorem setStage_flt (s : State) (x : Stage) : (s.setStage x).flt = s.flt := rfl
@[simp] theorem setStage_sau (s : State) (x : Stage) : (s.setStage x).sau = s.sau := rfl
@[simp] theorem setStage_te (s : State) (x : Stage) : (s.setStage x).te = s.te := rfl
@[simp] theorem setStage_irq (s : State) (x : Stage) : (s.setStage x).irq = s.irq := rfl
@[simp] theorem setStage_ch (s : State) (x : Stage) : (s.setStage x).ch = s.ch := rfl
@[simp] theorem setStage_cmd (s : State) (x : Stage) : (s.setStage x).cmd = s.cmd := rfl
@[simp] theorem setStage_mem (s : State) (x : Stage) : (s.setStage x).mem = s.mem := rfl
@[simp] theorem setStage_live (s : State) (x : Stage) : (s.setStage x).live = s.live := rfl
@[simp] theorem setStage_env (s : State) (x : Stage) : (s.setStage x).env = s.env := rfl
@[simp] theorem setStage_setStage (s : State) (x y : Stage) : (s.setStage x).setStage y = s.setStage y := rfl
@[simp] theorem setStage_same (s : State) : s.setStage s.stage = s := rfl
@[simp] theorem setCfg_par (s : State) (x : Latched) : (s.setCfg x).par = s.par := rfl
@[simp] theorem setCfg_stage (s : State) (x : Latched) : (s.setCfg x).stage = s.stage := rfl
@[simp] theorem setCfg_cfg (s : State) (x : Latched) : (s.setCfg x).cfg = x := rfl
@[simp] theorem setCfg_ses (s : State) (x : Latched) : (s.setCfg x).ses = s.ses := rfl
@[simp] theorem setCfg_rep (s : State) (x : Latched) : (s.setCfg x).rep = s.rep := rfl
@[simp] theorem setCfg_flt (s : State) (x : Latched) : (s.setCfg x).flt = s.flt := rfl
@[simp] theorem setCfg_sau (s : State) (x : Latched) : (s.setCfg x).sau = s.sau := rfl
@[simp] theorem setCfg_te (s : State) (x : Latched) : (s.setCfg x).te = s.te := rfl
@[simp] theorem setCfg_irq (s : State) (x : Latched) : (s.setCfg x).irq = s.irq := rfl
@[simp] theorem setCfg_ch (s : State) (x : Latched) : (s.setCfg x).ch = s.ch := rfl
@[simp] theorem setCfg_cmd (s : State) (x : Latched) : (s.setCfg x).cmd = s.cmd := rfl
@[simp] theorem setCfg_mem (s : State) (x : Latched) : (s.setCfg x).mem = s.mem := rfl
@[simp] theorem setCfg_live (s : State) (x : Latched) : (s.setCfg x).live = s.live := rfl
@[simp] theorem setCfg_env (s : State) (x : Latched) : (s.setCfg x).env = s.env := rfl
@[simp] theorem setCfg_setCfg (s : State) (x y : Latched) : (s.setCfg x).setCfg y = s.setCfg y := rfl
@[simp] theorem setCfg_same (s : State) : s.setCfg s.cfg = s := rfl
@[simp] theorem setSes_par (s : State) (x : Session) : (s.setSes x).par = s.par := rfl
@[simp] theorem setSes_stage (s : State) (x : Session) : (s.setSes x).stage = s.stage := rfl
@[simp] theorem setSes_cfg (s : State) (x : Session) : (s.setSes x).cfg = s.cfg := rfl
@[simp] theorem setSes_ses (s : State) (x : Session) : (s.setSes x).ses = x := rfl
@[simp] theorem setSes_rep (s : State) (x : Session) : (s.setSes x).rep = s.rep := rfl
@[simp] theorem setSes_flt (s : State) (x : Session) : (s.setSes x).flt = s.flt := rfl
@[simp] theorem setSes_sau (s : State) (x : Session) : (s.setSes x).sau = s.sau := rfl
@[simp] theorem setSes_te (s : State) (x : Session) : (s.setSes x).te = s.te := rfl
@[simp] theorem setSes_irq (s : State) (x : Session) : (s.setSes x).irq = s.irq := rfl
@[simp] theorem setSes_ch (s : State) (x : Session) : (s.setSes x).ch = s.ch := rfl
@[simp] theorem setSes_cmd (s : State) (x : Session) : (s.setSes x).cmd = s.cmd := rfl
@[simp] theorem setSes_mem (s : State) (x : Session) : (s.setSes x).mem = s.mem := rfl
@[simp] theorem setSes_live (s : State) (x : Session) : (s.setSes x).live = s.live := rfl
@[simp] theorem setSes_env (s : State) (x : Session) : (s.setSes x).env = s.env := rfl
@[simp] theorem setSes_setSes (s : State) (x y : Session) : (s.setSes x).setSes y = s.setSes y := rfl
@[simp] theorem setSes_same (s : State) : s.setSes s.ses = s := rfl
@[simp] theorem setRep_par (s : State) (x : Report) : (s.setRep x).par = s.par := rfl
@[simp] theorem setRep_stage (s : State) (x : Report) : (s.setRep x).stage = s.stage := rfl
@[simp] theorem setRep_cfg (s : State) (x : Report) : (s.setRep x).cfg = s.cfg := rfl
@[simp] theorem setRep_ses (s : State) (x : Report) : (s.setRep x).ses = s.ses := rfl
@[simp] theorem setRep_rep (s : State) (x : Report) : (s.setRep x).rep = x := rfl
@[simp] theorem setRep_flt (s : State) (x : Report) : (s.setRep x).flt = s.flt := rfl
@[simp] theorem setRep_sau (s : State) (x : Report) : (s.setRep x).sau = s.sau := rfl
@[simp] theorem setRep_te (s : State) (x : Report) : (s.setRep x).te = s.te := rfl
@[simp] theorem setRep_irq (s : State) (x : Report) : (s.setRep x).irq = s.irq := rfl
@[simp] theorem setRep_ch (s : State) (x : Report) : (s.setRep x).ch = s.ch := rfl
@[simp] theorem setRep_cmd (s : State) (x : Report) : (s.setRep x).cmd = s.cmd := rfl
@[simp] theorem setRep_mem (s : State) (x : Report) : (s.setRep x).mem = s.mem := rfl
@[simp] theorem setRep_live (s : State) (x : Report) : (s.setRep x).live = s.live := rfl
@[simp] theorem setRep_env (s : State) (x : Report) : (s.setRep x).env = s.env := rfl
@[simp] theorem setRep_setRep (s : State) (x y : Report) : (s.setRep x).setRep y = s.setRep y := rfl
@[simp] theorem setRep_same (s : State) : s.setRep s.rep = s := rfl
@[simp] theorem setFlt_par (s : State) (x : FaultRecord) : (s.setFlt x).par = s.par := rfl
@[simp] theorem setFlt_stage (s : State) (x : FaultRecord) : (s.setFlt x).stage = s.stage := rfl
@[simp] theorem setFlt_cfg (s : State) (x : FaultRecord) : (s.setFlt x).cfg = s.cfg := rfl
@[simp] theorem setFlt_ses (s : State) (x : FaultRecord) : (s.setFlt x).ses = s.ses := rfl
@[simp] theorem setFlt_rep (s : State) (x : FaultRecord) : (s.setFlt x).rep = s.rep := rfl
@[simp] theorem setFlt_flt (s : State) (x : FaultRecord) : (s.setFlt x).flt = x := rfl
@[simp] theorem setFlt_sau (s : State) (x : FaultRecord) : (s.setFlt x).sau = s.sau := rfl
@[simp] theorem setFlt_te (s : State) (x : FaultRecord) : (s.setFlt x).te = s.te := rfl
@[simp] theorem setFlt_irq (s : State) (x : FaultRecord) : (s.setFlt x).irq = s.irq := rfl
@[simp] theorem setFlt_ch (s : State) (x : FaultRecord) : (s.setFlt x).ch = s.ch := rfl
@[simp] theorem setFlt_cmd (s : State) (x : FaultRecord) : (s.setFlt x).cmd = s.cmd := rfl
@[simp] theorem setFlt_mem (s : State) (x : FaultRecord) : (s.setFlt x).mem = s.mem := rfl
@[simp] theorem setFlt_live (s : State) (x : FaultRecord) : (s.setFlt x).live = s.live := rfl
@[simp] theorem setFlt_env (s : State) (x : FaultRecord) : (s.setFlt x).env = s.env := rfl
@[simp] theorem setFlt_setFlt (s : State) (x y : FaultRecord) : (s.setFlt x).setFlt y = s.setFlt y := rfl
@[simp] theorem setFlt_same (s : State) : s.setFlt s.flt = s := rfl
@[simp] theorem setSau_par (s : State) (x : Sau) : (s.setSau x).par = s.par := rfl
@[simp] theorem setSau_stage (s : State) (x : Sau) : (s.setSau x).stage = s.stage := rfl
@[simp] theorem setSau_cfg (s : State) (x : Sau) : (s.setSau x).cfg = s.cfg := rfl
@[simp] theorem setSau_ses (s : State) (x : Sau) : (s.setSau x).ses = s.ses := rfl
@[simp] theorem setSau_rep (s : State) (x : Sau) : (s.setSau x).rep = s.rep := rfl
@[simp] theorem setSau_flt (s : State) (x : Sau) : (s.setSau x).flt = s.flt := rfl
@[simp] theorem setSau_sau (s : State) (x : Sau) : (s.setSau x).sau = x := rfl
@[simp] theorem setSau_te (s : State) (x : Sau) : (s.setSau x).te = s.te := rfl
@[simp] theorem setSau_irq (s : State) (x : Sau) : (s.setSau x).irq = s.irq := rfl
@[simp] theorem setSau_ch (s : State) (x : Sau) : (s.setSau x).ch = s.ch := rfl
@[simp] theorem setSau_cmd (s : State) (x : Sau) : (s.setSau x).cmd = s.cmd := rfl
@[simp] theorem setSau_mem (s : State) (x : Sau) : (s.setSau x).mem = s.mem := rfl
@[simp] theorem setSau_live (s : State) (x : Sau) : (s.setSau x).live = s.live := rfl
@[simp] theorem setSau_env (s : State) (x : Sau) : (s.setSau x).env = s.env := rfl
@[simp] theorem setSau_setSau (s : State) (x y : Sau) : (s.setSau x).setSau y = s.setSau y := rfl
@[simp] theorem setSau_same (s : State) : s.setSau s.sau = s := rfl
@[simp] theorem setTe_par (s : State) (x : Te) : (s.setTe x).par = s.par := rfl
@[simp] theorem setTe_stage (s : State) (x : Te) : (s.setTe x).stage = s.stage := rfl
@[simp] theorem setTe_cfg (s : State) (x : Te) : (s.setTe x).cfg = s.cfg := rfl
@[simp] theorem setTe_ses (s : State) (x : Te) : (s.setTe x).ses = s.ses := rfl
@[simp] theorem setTe_rep (s : State) (x : Te) : (s.setTe x).rep = s.rep := rfl
@[simp] theorem setTe_flt (s : State) (x : Te) : (s.setTe x).flt = s.flt := rfl
@[simp] theorem setTe_sau (s : State) (x : Te) : (s.setTe x).sau = s.sau := rfl
@[simp] theorem setTe_te (s : State) (x : Te) : (s.setTe x).te = x := rfl
@[simp] theorem setTe_irq (s : State) (x : Te) : (s.setTe x).irq = s.irq := rfl
@[simp] theorem setTe_ch (s : State) (x : Te) : (s.setTe x).ch = s.ch := rfl
@[simp] theorem setTe_cmd (s : State) (x : Te) : (s.setTe x).cmd = s.cmd := rfl
@[simp] theorem setTe_mem (s : State) (x : Te) : (s.setTe x).mem = s.mem := rfl
@[simp] theorem setTe_live (s : State) (x : Te) : (s.setTe x).live = s.live := rfl
@[simp] theorem setTe_env (s : State) (x : Te) : (s.setTe x).env = s.env := rfl
@[simp] theorem setTe_setTe (s : State) (x y : Te) : (s.setTe x).setTe y = s.setTe y := rfl
@[simp] theorem setTe_same (s : State) : s.setTe s.te = s := rfl
@[simp] theorem setIrq_par (s : State) (x : Irq) : (s.setIrq x).par = s.par := rfl
@[simp] theorem setIrq_stage (s : State) (x : Irq) : (s.setIrq x).stage = s.stage := rfl
@[simp] theorem setIrq_cfg (s : State) (x : Irq) : (s.setIrq x).cfg = s.cfg := rfl
@[simp] theorem setIrq_ses (s : State) (x : Irq) : (s.setIrq x).ses = s.ses := rfl
@[simp] theorem setIrq_rep (s : State) (x : Irq) : (s.setIrq x).rep = s.rep := rfl
@[simp] theorem setIrq_flt (s : State) (x : Irq) : (s.setIrq x).flt = s.flt := rfl
@[simp] theorem setIrq_sau (s : State) (x : Irq) : (s.setIrq x).sau = s.sau := rfl
@[simp] theorem setIrq_te (s : State) (x : Irq) : (s.setIrq x).te = s.te := rfl
@[simp] theorem setIrq_irq (s : State) (x : Irq) : (s.setIrq x).irq = x := rfl
@[simp] theorem setIrq_ch (s : State) (x : Irq) : (s.setIrq x).ch = s.ch := rfl
@[simp] theorem setIrq_cmd (s : State) (x : Irq) : (s.setIrq x).cmd = s.cmd := rfl
@[simp] theorem setIrq_mem (s : State) (x : Irq) : (s.setIrq x).mem = s.mem := rfl
@[simp] theorem setIrq_live (s : State) (x : Irq) : (s.setIrq x).live = s.live := rfl
@[simp] theorem setIrq_env (s : State) (x : Irq) : (s.setIrq x).env = s.env := rfl
@[simp] theorem setIrq_setIrq (s : State) (x y : Irq) : (s.setIrq x).setIrq y = s.setIrq y := rfl
@[simp] theorem setIrq_same (s : State) : s.setIrq s.irq = s := rfl
@[simp] theorem setCh_par (s : State) (x : Handler) : (s.setCh x).par = s.par := rfl
@[simp] theorem setCh_stage (s : State) (x : Handler) : (s.setCh x).stage = s.stage := rfl
@[simp] theorem setCh_cfg (s : State) (x : Handler) : (s.setCh x).cfg = s.cfg := rfl
@[simp] theorem setCh_ses (s : State) (x : Handler) : (s.setCh x).ses = s.ses := rfl
@[simp] theorem setCh_rep (s : State) (x : Handler) : (s.setCh x).rep = s.rep := rfl
@[simp] theorem setCh_flt (s : State) (x : Handler) : (s.setCh x).flt = s.flt := rfl
@[simp] theorem setCh_sau (s : State) (x : Handler) : (s.setCh x).sau = s.sau := rfl
@[simp] theorem setCh_te (s : State) (x : Handler) : (s.setCh x).te = s.te := rfl
@[simp] theorem setCh_irq (s : State) (x : Handler) : (s.setCh x).irq = s.irq := rfl
@[simp] theorem setCh_ch (s : State) (x : Handler) : (s.setCh x).ch = x := rfl
@[simp] theorem setCh_cmd (s : State) (x : Handler) : (s.setCh x).cmd = s.cmd := rfl
@[simp] theorem setCh_mem (s : State) (x : Handler) : (s.setCh x).mem = s.mem := rfl
@[simp] theorem setCh_live (s : State) (x : Handler) : (s.setCh x).live = s.live := rfl
@[simp] theorem setCh_env (s : State) (x : Handler) : (s.setCh x).env = s.env := rfl
@[simp] theorem setCh_setCh (s : State) (x y : Handler) : (s.setCh x).setCh y = s.setCh y := rfl
@[simp] theorem setCh_same (s : State) : s.setCh s.ch = s := rfl
@[simp] theorem setCmd_par (s : State) (x : Command) : (s.setCmd x).par = s.par := rfl
@[simp] theorem setCmd_stage (s : State) (x : Command) : (s.setCmd x).stage = s.stage := rfl
@[simp] theorem setCmd_cfg (s : State) (x : Command) : (s.setCmd x).cfg = s.cfg := rfl
@[simp] theorem setCmd_ses (s : State) (x : Command) : (s.setCmd x).ses = s.ses := rfl
@[simp] theorem setCmd_rep (s : State) (x : Command) : (s.setCmd x).rep = s.rep := rfl
@[simp] theorem setCmd_flt (s : State) (x : Command) : (s.setCmd x).flt = s.flt := rfl
@[simp] theorem setCmd_sau (s : State) (x : Command) : (s.setCmd x).sau = s.sau := rfl
@[simp] theorem setCmd_te (s : State) (x : Command) : (s.setCmd x).te = s.te := rfl
@[simp] theorem setCmd_irq (s : State) (x : Command) : (s.setCmd x).irq = s.irq := rfl
@[simp] theorem setCmd_ch (s : State) (x : Command) : (s.setCmd x).ch = s.ch := rfl
@[simp] theorem setCmd_cmd (s : State) (x : Command) : (s.setCmd x).cmd = x := rfl
@[simp] theorem setCmd_mem (s : State) (x : Command) : (s.setCmd x).mem = s.mem := rfl
@[simp] theorem setCmd_live (s : State) (x : Command) : (s.setCmd x).live = s.live := rfl
@[simp] theorem setCmd_env (s : State) (x : Command) : (s.setCmd x).env = s.env := rfl
@[simp] theorem setCmd_setCmd (s : State) (x y : Command) : (s.setCmd x).setCmd y = s.setCmd y := rfl
@[simp] theorem setCmd_same (s : State) : s.setCmd s.cmd = s := rfl
@[simp] theorem setMem_par (s : State) (x : Memory) : (s.setMem x).par = s.par := rfl
@[simp] theorem setMem_stage (s : State) (x : Memory) : (s.setMem x).stage = s.stage := rfl
@[simp] theorem setMem_cfg (s : State) (x : Memory) : (s.setMem x).cfg = s.cfg := rfl
@[simp] theorem setMem_ses (s : State) (x : Memory) : (s.setMem x).ses = s.ses := rfl
@[simp] theorem setMem_rep (s : State) (x : Memory) : (s.setMem x).rep = s.rep := rfl
@[simp] theorem setMem_flt (s : State) (x : Memory) : (s.setMem x).flt = s.flt := rfl
@[simp] theorem setMem_sau (s : State) (x : Memory) : (s.setMem x).sau = s.sau := rfl
@[simp] theorem setMem_te (s : State) (x : Memory) : (s.setMem x).te = s.te := rfl
@[simp] theorem setMem_irq (s : State) (x : Memory) : (s.setMem x).irq = s.irq := rfl
@[simp] theorem setMem_ch (s : State) (x : Memory) : (s.setMem x).ch = s.ch := rfl
@[simp] theorem setMem_cmd (s : State) (x : Memory) : (s.setMem x).cmd = s.cmd := rfl
@[simp] theorem setMem_mem (s : State) (x : Memory) : (s.setMem x).mem = x := rfl
@[simp] theorem setMem_live (s : State) (x : Memory) : (s.setMem x).live = s.live := rfl
@[simp] theorem setMem_env (s : State) (x : Memory) : (s.setMem x).env = s.env := rfl
@[simp] theorem setMem_setMem (s : State) (x y : Memory) : (s.setMem x).setMem y = s.setMem y := rfl
@[simp] theorem setMem_same (s : State) : s.setMem s.mem = s := rfl
@[simp] theorem setLive_par (s : State) (x : List Region) : (s.setLive x).par = s.par := rfl
@[simp] theorem setLive_stage (s : State) (x : List Region) : (s.setLive x).stage = s.stage := rfl
@[simp] theorem setLive_cfg (s : State) (x : List Region) : (s.setLive x).cfg = s.cfg := rfl
@[simp] theorem setLive_ses (s : State) (x : List Region) : (s.setLive x).ses = s.ses := rfl
@[simp] theorem setLive_rep (s : State) (x : List Region) : (s.setLive x).rep = s.rep := rfl
@[simp] theorem setLive_flt (s : State) (x : List Region) : (s.setLive x).flt = s.flt := rfl
@[simp] theorem setLive_sau (s : State) (x : List Region) : (s.setLive x).sau = s.sau := rfl
@[simp] theorem setLive_te (s : State) (x : List Region) : (s.setLive x).te = s.te := rfl
@[simp] theorem setLive_irq (s : State) (x : List Region) : (s.setLive x).irq = s.irq := rfl
@[simp] theorem setLive_ch (s : State) (x : List Region) : (s.setLive x).ch = s.ch := rfl
@[simp] theorem setLive_cmd (s : State) (x : List Region) : (s.setLive x).cmd = s.cmd := rfl
@[simp] theorem setLive_mem (s : State) (x : List Region) : (s.setLive x).mem = s.mem := rfl
@[simp] theorem setLive_live (s : State) (x : List Region) : (s.setLive x).live = x := rfl
@[simp] theorem setLive_env (s : State) (x : List Region) : (s.setLive x).env = s.env := rfl
@[simp] theorem setLive_setLive (s : State) (x y : List Region) : (s.setLive x).setLive y = s.setLive y := rfl
@[simp] theorem setLive_same (s : State) : s.setLive s.live = s := rfl
@[simp] theorem setEnv_par (s : State) (x : Env) : (s.setEnv x).par = s.par := rfl
@[simp] theorem setEnv_stage (s : State) (x : Env) : (s.setEnv x).stage = s.stage := rfl
@[simp] theorem setEnv_cfg (s : State) (x : Env) : (s.setEnv x).cfg = s.cfg := rfl
@[simp] theorem setEnv_ses (s : State) (x : Env) : (s.setEnv x).ses = s.ses := rfl
@[simp] theorem setEnv_rep (s : State) (x : Env) : (s.setEnv x).rep = s.rep := rfl
@[simp] theorem setEnv_flt (s : State) (x : Env) : (s.setEnv x).flt = s.flt := rfl
@[simp] theorem setEnv_sau (s : State) (x : Env) : (s.setEnv x).sau = s.sau := rfl
@[simp] theorem setEnv_te (s : State) (x : Env) : (s.setEnv x).te = s.te := rfl
@[simp] theorem setEnv_irq (s : State) (x : Env) : (s.setEnv x).irq = s.irq := rfl
@[simp] theorem setEnv_ch (s : State) (x : Env) : (s.setEnv x).ch = s.ch := rfl
@[simp] theorem setEnv_cmd (s : State) (x : Env) : (s.setEnv x).cmd = s.cmd := rfl
@[simp] theorem setEnv_mem (s : State) (x : Env) : (s.setEnv x).mem = s.mem := rfl
@[simp] theorem setEnv_live (s : State) (x : Env) : (s.setEnv x).live = s.live := rfl
@[simp] theorem setEnv_env (s : State) (x : Env) : (s.setEnv x).env = x := rfl
@[simp] theorem setEnv_setEnv (s : State) (x y : Env) : (s.setEnv x).setEnv y = s.setEnv y := rfl
@[simp] theorem setEnv_same (s : State) : s.setEnv s.env = s := rfl

end Sys2Proof.Laws
end

