-- ==== Sys2Proof/Laws/Ops.lean ====
section
/-! SUPPORT. What the shared operations can do, once each: buffer addresses and stores, the draws, the
allocator, and the gates every host operation and every command micro-step pass. -/

namespace Sys2Proof.Laws

open Sys2Proof Sys2Proof.Machine

/-! ## Buffer addresses and stores -/

/-- The next word of a buffer is four bytes on (20 R69). -/
theorem wordAddr_succ (a : Word) (k : Nat) : wordAddr a k + 4#32 = wordAddr a (k + 1) := by
  simp only [wordAddr, BitVec.add_assoc]
  congr 1
  apply BitVec.eq_of_toNat_eq
  simp [BitVec.toNat_add, BitVec.toNat_ofNat]
  omega

/-- Word `k` of a region does not wrap (20 R70). -/
theorem wordAddr_toNat {p : Params} {a : Word} {n k : Nat} (h : RegionOk p a n) (hk : k < n) :
    (wordAddr a k).toNat = a.toNat + 4 * k := by
  obtain ⟨-, -, -, h4⟩ := h
  simp only [wordAddr, BitVec.toNat_add, BitVec.toNat_ofNat]
  omega

/-- Word `k` of a region may be accessed. -/
theorem accessOk_word {p : Params} {a : Word} {n k : Nat} (h : RegionOk p a n) (hk : k < n) :
    accessOk p (wordAddr a k) 4 = true := by
  have hw := wordAddr_toNat h hk
  obtain ⟨h1, h2, h3, h4⟩ := h
  simp only [accessOk, hw, Bool.and_eq_true, decide_eq_true_eq]
  omega

/-- A store to word `k` of a region succeeds. -/
theorem memWrite_word {p : Params} {a : Word} {n k : Nat} (h : RegionOk p a n) (hk : k < n) (m : Memory)
    (v : Word) : memWrite p m (wordAddr a k) .w4 v = some (m.store (wordAddr a k).toNat v 4) := by
  simp [memWrite, Width.bytes, accessOk_word h hk]

/-- The zero fill of two regions succeeds. -/
theorem zeroFill_regions {p : Params} {a0 a1 : Word} {n : Nat} (h0 : RegionOk p a0 n) (h1 : RegionOk p a1 n)
    (m : Memory) : ∀ k ≤ n, ∃ m', zeroFill p a0 a1 k m = some m' := by
  intro k
  induction k with
  | zero => exact fun _ => ⟨m, rfl⟩
  | succ k ih =>
    intro hk
    obtain ⟨m', hm⟩ := ih (by omega)
    rw [zeroFill, hm]
    simp only [memWrite_word h0 (show k < n by omega), memWrite_word h1 (show k < n by omega)]
    exact ⟨_, rfl⟩

/-! ## Draws and the allocator -/

/-- A microphone draw changes the environment only (40 R127). -/
theorem drawMic_state (s : State) : ∃ e, (drawMic s).2 = s.setEnv e := by
  unfold drawMic
  split <;> exact ⟨_, rfl⟩

/-- An allocator's answer changes the environment's draws only. -/
theorem drawAnswer_state (s : State) :
    ∃ as d, (drawAnswer s).2 = s.setEnv { s.env with allocs := as, drawn := d } := by
  unfold drawAnswer
  split <;> exact ⟨_, _, rfl⟩

/-- All an allocation can do (20 R70): fail and change the environment's draws only, or answer an allowed region,
which is then live. -/
theorem alloc_cases (n : Nat) (s : State) :
    ∃ as d, alloc n s = (none, s.setEnv { s.env with allocs := as, drawn := d }) ∨
      ∃ a, alloc n s = (some a, (s.setEnv { s.env with allocs := as, drawn := d }).setLive
        ({ base := a, size := n } :: s.live)) ∧ allocOk s.par s.live n a = true := by
  obtain ⟨as, d, he⟩ := drawAnswer_state s
  refine ⟨as, d, ?_⟩
  unfold alloc
  split
  · exact .inl (by rw [he])
  · split
    · next a _ h => exact .inr ⟨a, by rw [he], h⟩
    · exact .inl (by rw [he])

/-- What an allowed answer is. -/
theorem regionOk_of_allocOk {p : Params} {live : List Region} {n : Nat} {a : Word}
    (h : allocOk p live (4 * n) a = true) : RegionOk p a n := by
  simp only [allocOk, Bool.and_eq_true, decide_eq_true_eq] at h
  exact ⟨h.1.1.1.1, h.1.1.1.2, h.1.1.2, h.1.2⟩

/-- An allowed answer shares no byte with a live region. -/
theorem disjoint_of_allocOk {p : Params} {live : List Region} {n : Nat} {a : Word} {r : Region}
    (h : allocOk p live n a = true) (hr : r ∈ live) :
    a.toNat + n ≤ r.base.toNat ∨ r.base.toNat + r.size ≤ a.toNat := by
  simp only [allocOk, Bool.and_eq_true, List.all_eq_true] at h
  simpa [disjointRanges] using h.2 r hr

/-! ## The receive queue -/

/-- A pop takes the head and leaves the rest of the SAU alone (40 R125). -/
theorem sauPop_eq_some {s t : State} {w : Word} :
    sauPop s = some (w, t) ↔ ∃ ws, s.sau.rxq = w :: ws ∧ t = s.setSau { s.sau with rxq := ws } := by
  unfold sauPop
  split
  · next h => simp [h]
  · next x ws h => simp [h, eq_comm]

/-- There is nothing to pop exactly when data-ready is low (40 R125). -/
theorem sauPop_eq_none {s : State} : sauPop s = none ↔ dreq s = false := by
  unfold sauPop dreq
  split
  · next h => simp [h]
  · next h => simp [h]

/-- A push touches neither the enable nor the phase (40 R126). -/
@[simp] theorem sauPush_en (d : Nat) (w : Word) (q : Sau) : (sauPush d w q).en = q.en := by
  unfold sauPush; split <;> rfl

@[simp] theorem sauPush_phase (d : Nat) (w : Word) (q : Sau) : (sauPush d w q).phase = q.phase := by
  unfold sauPush; split <;> rfl

/-- A push keeps the queue within its depth. -/
theorem sauPush_length {d : Nat} (w : Word) {q : Sau} (h : q.rxq.length ≤ d) :
    (sauPush d w q).rxq.length ≤ d := by
  unfold sauPush
  split
  · simp only [List.length_append, List.length_singleton]; omega
  · exact h

/-! ## Gates -/

/-- When the host may act, the gate is open (44 R220). -/
theorem hostGate_open {s : State} (h : HostMayAct s) (k : State → Out) : hostGate s k = k s := by
  obtain ⟨a, b, c⟩ := h
  simp [hostGate, a, b, c]

/-- A host operation gives a next state only when the host may act. -/
theorem hostGate_next {s t : State} {k : State → Out} (h : hostGate s k = .next t) :
    HostMayAct s ∧ k s = .next t := by
  unfold hostGate at h
  split at h
  · cases h
  · split at h
    · cases h
    · split at h
      · cases h
      · next a b c => exact ⟨⟨by simpa using a, by simpa using b, by simpa using c⟩, h⟩

/-- A gate faults only after a recorded fault. -/
theorem hostGate_of_fault {s : State} (h : s.flt.fault = true) (k : State → Out) :
    hostGate s k = .fault .afterFault := by
  simp [hostGate, h]

/-- With no command in progress a command starts (43 R180). -/
theorem commandStep_idle {s : State} (h : HostMayAct s) (op : CmdOp) (b : Bool) (micro : Nat → State → Out) :
    commandStep op b micro s = .next (startCommand op b s) := by
  obtain ⟨a, b', c⟩ := h
  simp [commandStep, a, b', c]

/-- The command in progress takes its next micro-step (43 R180). -/
theorem commandStep_at {s : State} {op : CmdOp} {k : Nat} (h : AtMicroStep op k s) (hop : op ≠ .none) {b : Bool}
    (hb : op = .getbuf → s.cmd.b = b) (micro : Nat → State → Out) :
    commandStep op b micro s = micro k s := by
  obtain ⟨h1, h2, h3, h4⟩ := h
  subst h3 h4
  simp only [commandStep, h1, h2, if_neg hop, Bool.false_eq_true, if_false, true_and, if_pos hb]

/-- All a command instruction can do when it gives a next state: start, or take a micro-step. -/
theorem commandStep_next {s t : State} {op : CmdOp} {b : Bool} {micro : Nat → State → Out}
    (h : commandStep op b micro s = .next t) :
    HostMayAct s ∧ t = startCommand op b s ∨
    AtMicroStep op s.cmd.cpc.toNat s ∧ (op = .getbuf → s.cmd.b = b) ∧ micro s.cmd.cpc.toNat s = .next t := by
  unfold commandStep at h
  split at h
  · cases h
  · split at h
    · cases h
    · next h1 h2 =>
      split at h
      · next h3 =>
        simp only [Host.Outcome.next.injEq] at h
        exact .inl ⟨⟨by simpa using h1, by simpa using h2, h3⟩, h.symm⟩
      · split at h
        · next h4 => exact .inr ⟨⟨by simpa using h1, by simpa using h2, h4.1, rfl⟩, h4.2, h⟩
        · cases h

/-- All a check step can do (43 R181). -/
theorem checkStep_cases (c : Option Cause) (k : Nat) (s : State) :
    (∃ x, c = some x ∧ checkStep c k s = .next (takeFault x s)) ∨
    c = none ∧ checkStep c k s = .next (goTo k s) := by
  cases c with
  | none => exact .inr ⟨rfl, rfl⟩
  | some x => exact .inl ⟨x, rfl, rfl⟩

/-! ## The fault record -/

/-- A fault record once made stays (10 R32). -/
@[simp] theorem recordFault_of_fault {f : FaultRecord} (h : f.fault = true) (c : Cause) :
    recordFault c f = f := by
  simp [recordFault, h]

/-- The first fault is recorded with its cause (60 R243). -/
@[simp] theorem recordFault_of_none {f : FaultRecord} (h : f.fault = false) (c : Cause) :
    recordFault c f = { fault := true, cause := c } := by
  simp [recordFault, h]

/-- After any fault the sticky bit is set. -/
@[simp] theorem takeFault_fault (c : Cause) (s : State) : (takeFault c s).flt.fault = true := by
  unfold takeFault recordFault
  cases h : s.flt.fault <;> simp [h]

end Sys2Proof.Laws
end

