-- ==== Sys2Proof/Laws/Step.lean ====
section
/-! SUPPORT. What a step is: the turn that is taken, the action it becomes, and the small facts that take a
step apart. -/

namespace Sys2Proof.Laws

open Sys2Proof Sys2Proof.Machine

/-- A step is the action of the turn taken, or nothing where nobody moves. -/
theorem step_eq (s : State) :
    step s = match (takeTurn s).1 with
      | none => .next (takeTurn s).2
      | some t => perform (actionOf t (takeTurn s).2) (takeTurn s).2 := rfl

/-- Taking a turn changes the environment only. -/
theorem takeTurn_state (s : State) : ∃ e, (takeTurn s).2 = s.setEnv e := by
  unfold takeTurn
  split
  · exact ⟨_, rfl⟩
  · split
    · exact ⟨s.env, rfl⟩
    · exact ⟨s.env, rfl⟩
    · exact ⟨_, rfl⟩

/-- A turn the environment has decided on is the one taken. -/
theorem takeTurn_cons {s : State} {t : Turn} {ts : List Turn} (h : s.env.sched = t :: ts) :
    takeTurn s = (some t, s.setEnv { s.env with sched := ts }) := by
  unfold takeTurn
  simp [h]

/-- With a turn decided on, a step is that turn's action. -/
theorem step_cons {s : State} {t : Turn} {ts : List Turn} (h : s.env.sched = t :: ts) :
    step s = perform (actionOf t (s.setEnv { s.env with sched := ts })) (s.setEnv { s.env with sched := ts }) := by
  rw [step_eq, takeTurn_cons h]

/-- No free choice is ever a reset. -/
theorem reset_notin_enabledTurns (s : State) : Turn.reset ∉ enabledTurns s := by
  simp [enabledTurns]

/-- A reset is taken only when the environment has decided on it. -/
theorem takeTurn_reset {s : State} (h : (takeTurn s).1 = some .reset) : s.env.sched.head? = some .reset := by
  unfold takeTurn at h
  split at h
  · next t ts hs =>
    simp only [Option.some.injEq] at h
    simp [hs, h]
  · exfalso
    have hn := reset_notin_enabledTurns s
    split at h
    · cases h
    · next t he =>
      simp only [Option.some.injEq] at h
      rw [he, h] at hn
      simp at hn
    · next t u ts he =>
      rw [he] at hn
      exact hn (List.mem_of_getElem? h)

/-- The count of deferred APP steps changes the environment only. -/
theorem countDefer_state (s : State) : ∃ e, countDefer s = s.setEnv e := ⟨_, rfl⟩

/-- Taking the host's operation off its program changes the environment only. -/
theorem dropHostOp_state (s : State) : ∃ e, dropHostOp s = s.setEnv e := ⟨_, rfl⟩

/-- The SAU's action. -/
theorem actionOf_sau (s : State) : actionOf .sau s = if s.sau.en then .sauWord else .idle := rfl

/-- The Transfer Engine's action. -/
theorem actionOf_te (s : State) : actionOf .te s = if teEnabled s then .teCopy else .idle := rfl

/-- The actions of the command in progress and of the environment alone. -/
theorem perform_idle (s : State) : perform .idle s = .next s := rfl

theorem perform_micro (i : Instr) (s : State) : perform (.micro i) s = exec i (countDefer s) := rfl

/-- No turn takes a unit primitive by itself (00 R14). -/
theorem actionOf_isPrimitive (t : Turn) (s : State) : (actionOf t s).isPrimitive = false := by
  cases t <;> simp only [actionOf, appAction, hostAction, irqAction]
  all_goals repeat' split
  all_goals rfl

/-- A unit primitive by itself, before any fault: its effect, or its fault TE_MISUSE. -/
theorem runPrimitive_eq {s : State} (hf : s.flt.fault = false) (o : Option State) :
    runPrimitive o s = .next (o.getD (takeFault .teMisuse s)) := by
  cases o <;> simp [runPrimitive, hf]

theorem perform_host (op : HostOp) (s : State) : perform (.host op) s = issue op (countDefer (dropHostOp s)) := rfl

/-- A decoded transaction runs its instruction. -/
theorem runEncoding_ok {e : Encoding} {i : Instr} {s : State} (h : decode s.par.sauBase e = .ok i) :
    runEncoding e s = exec i s := by
  simp [runEncoding, h]

/-- A rejected transaction is rejected by name. -/
theorem runEncoding_error {e : Encoding} {r : Reject} {s : State} (h : decode s.par.sauBase e = .error r) :
    runEncoding e s = reject r s := by
  simp [runEncoding, h]

/-! ## Everything a step can do -/

/-- A register read gives its value to the host and does nothing else. -/
theorem readView_next {v : Word} {s t : State} (h : readView v s = .next t) :
    HostMayAct s ∧ t = returnToHost v s := by
  have h' := hostGate_next h
  exact ⟨h'.1, by cases h'.2; rfl⟩

/-- A configuration write stores the staging registers and does nothing else. -/
theorem writeStage_next {x : Stage} {s t : State} (h : writeStage x s = .next t) :
    HostMayAct s ∧ t = s.setStage x := by
  have h' := hostGate_next h
  exact ⟨h'.1, by cases h'.2; rfl⟩

/-- All an instruction can do when no command is in progress: start one, write staging registers, fault, or
return a value to the host. -/
theorem exec_idle_next {i : Instr} {s t : State} (hc : s.cmd.op = .none) (h : exec i s = .next t) :
    HostMayAct s ∧ ((∃ op b, t = startCommand op b s) ∨ (∃ x, t = s.setStage x) ∨ ∃ c, t = takeFault c s) ∨
    ∃ v, t = returnToHost v s := by
  have cmd : ∀ {op b micro}, commandStep op b micro s = .next t →
      HostMayAct s ∧ ((∃ op b, t = startCommand op b s) ∨ (∃ x, t = s.setStage x) ∨ ∃ c, t = takeFault c s) ∨
      ∃ v, t = returnToHost v s := by
    intro op b micro h
    unfold commandStep at h
    split at h
    · cases h
    · split at h
      · cases h
      · next h1 h2 =>
        cases h
        exact .inl ⟨⟨by simpa using h1, by simpa using h2, hc⟩, .inl ⟨_, _, rfl⟩⟩
  cases i <;> simp only [exec] at h
  all_goals first
    | exact cmd h
    | exact .inr ⟨_, (readView_next h).2⟩
    | exact .inl ⟨(writeStage_next h).1, .inr (.inl ⟨_, (writeStage_next h).2⟩)⟩
    | skip
  · obtain ⟨hs, h⟩ := hostGate_next h
    cases h
    refine .inl ⟨hs, ?_⟩
    unfold writeCommand
    split
    · exact .inr (.inr ⟨_, rfl⟩)
    · split
      · exact .inr (.inr ⟨_, rfl⟩)
      · exact .inl ⟨_, _, rfl⟩
  · unfold execRdStatus at h
    split at h
    · cases h; exact .inr ⟨_, rfl⟩
    · exact .inr ⟨_, (readView_next h).2⟩

/-- All an instruction can do after a fault: RD STATUS returns a value to the host. -/
theorem exec_faulted_next {i : Instr} {s t : State} (hf : s.flt.fault = true) (h : exec i s = .next t) :
    ∃ v, t = returnToHost v s := by
  have cmd : ∀ {op b micro}, commandStep op b micro s = .next t → ∃ v, t = returnToHost v s := by
    intro op b micro h
    rw [commandStep, if_pos hf] at h
    cases h
  have view : ∀ {v}, readView v s = .next t → ∃ v, t = returnToHost v s :=
    fun h => ⟨_, (readView_next h).2⟩
  have stage : ∀ {x}, writeStage x s = .next t → ∃ v, t = returnToHost v s := by
    intro x h
    have := (writeStage_next h).1.1
    simp [hf] at this
  cases i <;> simp only [exec] at h
  all_goals first
    | exact cmd h
    | exact view h
    | exact stage h
    | skip
  · rw [execWrCmd, hostGate_of_fault hf] at h
    cases h
  · rw [execRdStatus, if_pos hf] at h
    cases h
    exact ⟨_, rfl⟩

/-- All a host operation can do where the host may act, or after a fault. -/
theorem issue_next {op : HostOp} {s t : State} (hs : s.cmd.op = .none ∨ s.flt.fault = true)
    (h : issue op s = .next t) :
    HostMayAct s ∧ ((∃ op b, t = startCommand op b s) ∨ (∃ x, t = s.setStage x) ∨ (∃ c, t = takeFault c s) ∨
      ∃ a w v m, memWrite s.par s.mem a w v = some m ∧ inBuffers s a w.bytes = true ∧ t = s.setMem m) ∨
    ∃ v, t = returnToHost v s := by
  have enc : ∀ {e}, runEncoding e s = .next t →
      HostMayAct s ∧ ((∃ op b, t = startCommand op b s) ∨ (∃ x, t = s.setStage x) ∨ (∃ c, t = takeFault c s) ∨
        ∃ a w v m, memWrite s.par s.mem a w v = some m ∧ inBuffers s a w.bytes = true ∧ t = s.setMem m) ∨
      ∃ v, t = returnToHost v s := by
    intro e h
    unfold runEncoding at h
    split at h
    · rcases hs with hs | hs
      · rcases exec_idle_next hs h with ⟨a, b | b | b⟩ | b
        · exact .inl ⟨a, .inl b⟩
        · exact .inl ⟨a, .inr (.inl b)⟩
        · exact .inl ⟨a, .inr (.inr (.inl b))⟩
        · exact .inr b
      · exact .inr (exec_faulted_next hs h)
    · unfold reject at h
      split at h
      · cases h
      all_goals
        obtain ⟨hm, h⟩ := hostGate_next h
        cases h
        exact .inl ⟨hm, .inr (.inr (.inl ⟨_, rfl⟩))⟩
  cases op with
  | bus t => exact enc h
  | cmd w => exact enc h
  | load a w =>
    simp only [issue, hostLoad, hostAccess] at h
    obtain ⟨hm, h⟩ := hostGate_next h
    split at h
    · cases h
    · split at h
      · split at h
        · cases h
        · cases h; exact .inr ⟨_, rfl⟩
      · cases h
  | store a w v =>
    simp only [issue, hostStore, hostAccess] at h
    obtain ⟨hm, h⟩ := hostGate_next h
    split at h
    · cases h
    · split at h
      · next hin =>
        split at h
        · cases h
        · next m hw => cases h; exact .inl ⟨hm, .inr (.inr (.inr ⟨a, w, v, m, hw, hin, rfl⟩))⟩
      · cases h

/-- The micro-step of the command in progress. -/
def microNext (s : State) : Out :=
  match s.cmd.op with
  | .none => .next s
  | .init => initMicro s.cmd.cpc.toNat s
  | .start => startMicro s.cmd.cpc.toNat s
  | .stop => stopMicro s.cmd.cpc.toNat s
  | .getbuf => getbufMicro s.cmd.cpc.toNat s
  | .record => recordMicro s.cmd.cpc.toNat s

/-- The instruction in progress runs its next micro-step. -/
theorem exec_inProgress {i : Instr} {s : State} (hi : inProgress s.cmd = some i) (hf : s.flt.fault = false)
    (hh : s.ch.inHandler = false) : exec i s = microNext s := by
  unfold inProgress at hi
  unfold microNext
  split at hi <;> simp only [Option.some.injEq, reduceCtorEq] at hi
  all_goals
    subst hi
    next h => simp [exec, execInit, execStart, execStop, execGetbuf, execRecord, commandStep, hf, hh, h]

/-- What the host, or the command in progress, does in a step of APP. -/
def AppStep (s t : State) : Prop :=
  (s.cmd.op = .none ∨ s.flt.fault = true) ∧ (∃ op, issue op s = .next t) ∨
  s.cmd.op ≠ .none ∧ s.flt.fault = false ∧ s.ch.inHandler = false ∧ appWaiting s = false ∧ microNext s = .next t

/-- What the handler does in a step of IRQ. -/
def IrqStep (s t : State) : Prop :=
  s.flt.fault = false ∧
  (s.ch.inHandler = false ∧ irqLine s = true ∧ t = enterHandler s ∨
   s.ch.inHandler = true ∧ s.ch.hpc = .entered ∧ chPublish s = .next t ∨
   s.ch.inHandler = true ∧ s.ch.hpc = .published ∧ chRetarget s = .next t ∨
   s.ch.inHandler = true ∧ s.ch.hpc = .retargeted ∧ t = leaveHandler (teAck s))

/-- Everything a step can do: with the environment's own record changed first, nothing, or one step of one
agent. Nothing a step does depends on that record but what it draws from it. -/
theorem step_cases {s t : State} (h : step s = .next t) :
    ∃ e, t = s.setEnv e ∨ AppStep (s.setEnv e) t ∨ ((takeTurn s).1 = some .irq ∧ IrqStep (s.setEnv e) t) ∨
      (s.flt.fault = false ∧ s.sau.en = true ∧ sauWord (s.setEnv e) = .next t) ∨
      (s.flt.fault = false ∧ teEnabled s = true ∧ teCopy (s.setEnv e) = .next t) ∨
      (s.env.sched.head? = some .reset ∧ t = assertReset (s.setEnv e)) := by
  rw [step_eq] at h
  obtain ⟨e, he⟩ := takeTurn_state s
  cases ht : (takeTurn s).1 with
  | none => rw [ht, he] at h; cases h; exact ⟨e, .inl rfl⟩
  | some u =>
    rw [ht, he] at h
    simp only at h
    have host : ∀ {s' : State}, s'.cmd.op = .none ∨ s'.flt.fault = true → perform (hostAction s') s' = .next t →
        ∃ e, t = s'.setEnv e ∨ AppStep (s'.setEnv e) t := by
      intro s' hs h
      unfold hostAction at h
      split at h
      · cases h; exact ⟨t.env, .inl rfl⟩
      · exact ⟨(countDefer (dropHostOp s')).env, .inr (.inl ⟨hs, _, h⟩)⟩
    cases u with
    | reset => cases h; exact ⟨e, .inr (.inr (.inr (.inr (.inr ⟨takeTurn_reset ht, rfl⟩))))⟩
    | sau =>
      rw [actionOf_sau] at h
      split at h
      · next hen =>
        refine ⟨e, .inr (.inr (.inr (.inl ⟨?_, hen, h⟩)))⟩
        simp only [perform, sauWord] at h
        split at h
        · cases h
        · next hf => simpa using hf
      · cases h; exact ⟨e, .inl rfl⟩
    | te =>
      rw [actionOf_te] at h
      split at h
      · next hen =>
        refine ⟨e, .inr (.inr (.inr (.inr (.inl ⟨?_, hen, h⟩))))⟩
        simp only [perform, teCopy] at h
        split at h
        · cases h
        · next hf => simpa using hf
      · cases h; exact ⟨e, .inl rfl⟩
    | irq =>
      simp only [actionOf, irqAction] at h
      split at h
      · next hin =>
        split at h
        · next hl =>
          simp only [perform, chEnter] at h
          split at h
          · cases h
          · next hf =>
            cases h
            have hf' : s.flt.fault = false := by simpa [clearDefer] using hf
            exact ⟨(clearDefer (s.setEnv e)).env, .inr (.inr (.inl ⟨rfl, hf', .inl ⟨hin, hl, rfl⟩⟩))⟩
        · cases h; exact ⟨e, .inl rfl⟩
      · next hin hp =>
        refine ⟨e, .inr (.inr (.inl ⟨rfl, ?_, .inr (.inl ⟨hin, hp, h⟩)⟩))⟩
        simp only [perform, chPublish] at h
        split at h
        · cases h
        · next hf => simpa using hf
      · next hin hp =>
        refine ⟨e, .inr (.inr (.inl ⟨rfl, ?_, .inr (.inr (.inl ⟨hin, hp, h⟩))⟩))⟩
        simp only [perform, chRetarget] at h
        split at h
        · cases h
        · next hf => simpa using hf
      · next hin hp =>
        simp only [perform, chAck] at h
        split at h
        · cases h
        · next hf =>
          cases h
          exact ⟨e, .inr (.inr (.inl ⟨rfl, by simpa using hf, .inr (.inr (.inr ⟨hin, hp, rfl⟩))⟩))⟩
      · cases h; exact ⟨e, .inl rfl⟩
    | app =>
      simp only [actionOf, appAction] at h
      split at h
      · next hf =>
        obtain ⟨e', h' | h'⟩ := host (.inr hf) h
        · exact ⟨e', .inl h'⟩
        · exact ⟨e', .inr (.inl h')⟩
      · next hf =>
        split at h
        · cases h; exact ⟨e, .inl rfl⟩
        · next hx =>
          simp only [Bool.or_eq_true, not_or, Bool.not_eq_true] at hf hx
          split at h
          · next i hi =>
            split at h
            · cases h; exact ⟨e, .inl rfl⟩
            · next hw =>
              rw [perform_micro, exec_inProgress (s := countDefer (s.setEnv e)) hi hf hx.1] at h
              have hw' : appWaiting (s.setEnv e) = false := by simpa using hw
              refine ⟨(countDefer (s.setEnv e)).env, .inr (.inl (.inr ⟨?_, hf, hx.1, hw', h⟩))⟩
              intro hn
              simp [inProgress, show s.cmd.op = .none from hn] at hi
          · next hi =>
            have hn : (s.setEnv e).cmd.op = .none := by
              unfold inProgress at hi
              split at hi
              · assumption
              all_goals cases hi
            obtain ⟨e', h' | h'⟩ := host (.inl hn) h
            · exact ⟨e', .inl h'⟩
            · exact ⟨e', .inr (.inl h')⟩

end Sys2Proof.Laws
end

