-- ==== Sys2Proof/Laws/Fair.lean ====
section
/-! SUPPORT. What weak fairness gives (spec/00_scope.md rule R9): the one leads-to rule that liveness claims use, and
a step of a run under a schedule. -/

namespace Sys2Proof.Laws

open Sys2Proof Sys2Proof.Machine

/-- Scheduling an agent changes the environment only. -/
theorem scheduled_state (t : Turn) (s : State) : ∃ e, scheduled t s = s.setEnv e := ⟨_, rfl⟩

/-- Whether an agent has a step does not depend on the turns to come. -/
@[simp] theorem actionOf_setSched (t : Turn) (s : State) (ts : List Turn) :
    actionOf t (s.setEnv { s.env with sched := ts }) = actionOf t s := by
  cases t <;> rfl

/-- A step of a run is the action of the agent scheduled there. -/
theorem runsBy_step {τ : Nat → Turn} {r : Nat → State} (h : RunsBy τ r) (k : Nat) :
    perform (actionOf (τ k) (r k)) ((r k).setEnv { (r k).env with sched := [] }) = .next (r (k + 1)) := by
  have hk := h k
  rw [step_cons (t := τ k) (ts := []) rfl] at hk
  exact (congrArg (perform · _) (actionOf_setSched (τ k) (r k) [])).symm.trans hk

/-- Leads-to: where `P` keeps agent `t` enabled, every step keeps `P` or reaches `Q`, and `t`'s step reaches `Q`, a
fair run that meets `P` meets `Q`. -/
theorem eventually_of_fair {τ : Nat → Turn} {r : Nat → State} (hf : WeaklyFair τ r) {t : Turn} (ht : t ≠ .reset)
    {P Q : State → Prop} (enabled : ∀ j, P (r j) → Enabled t (r j))
    (keeps : ∀ j, P (r j) → P (r (j + 1)) ∨ Q (r (j + 1))) (reaches : ∀ j, P (r j) → τ j = t → Q (r (j + 1)))
    {k : Nat} (hk : P (r k)) : ∃ j ≥ k, Q (r j) := by
  by_contra hn
  have stays : ∀ n, P (r (k + n)) := by
    intro n
    induction n with
    | zero => exact hk
    | succ n ih => exact (keeps _ ih).resolve_right fun hq => hn ⟨_, by omega, hq⟩
  have stays' : ∀ j ≥ k, P (r j) := fun j hj => by
    have := stays (j - k)
    rwa [Nat.add_sub_cancel' hj] at this
  obtain ⟨j, hj, hjt⟩ := hf t ht k fun j hj => enabled j (stays' j hj)
  exact hn ⟨j + 1, by omega, reaches j (stays' j hj) hjt⟩

end Sys2Proof.Laws
end

