-- ==== Sys2Proof/Laws/PerInstr.lean ====
section
/-! SUPPORT. Statements made of every instruction as syntax, one lemma per constructor: its encoding is a
well-formed one of spec/30_encoding.md (rules R94 to R96), wherever the register window lies. -/

namespace Sys2Proof.Laws.EncodesWellFormed

open Sys2Proof

/-- The encoding of `i` is well formed: a legal command word, or a legal pair in the window. -/
def Statement (i : Instr) : Prop := ∀ base : Word, (encode base i).wf base = true

/-- A read of a readable register of the window is well formed. -/
theorem readAt_wf {off : Word} (h : off.toNat < 64 ∧ off.toNat % 4 = 0 ∧ readableIndex (off.toNat / 4) = true)
    (base : Word) : (readAt base off).wf base = true := by
  simp [readAt, Encoding.wf, BusTuple.wf, h]

/-- A write of a writable register of the window is well formed. -/
theorem writeAt_wf {off : Word} (h : off.toNat < 64 ∧ off.toNat % 4 = 0 ∧ writableIndex (off.toNat / 4) = true)
    (v base : Word) : (writeAt base off v).wf base = true := by
  simp [writeAt, Encoding.wf, BusTuple.wf, h]

/-- A legal command word is well formed. -/
theorem cmdWord_wf {w : Word} (h : cmdWordWf w = true) (base : Word) : (Encoding.cmdWord w).wf base = true := h

theorem init : Statement .init := cmdWord_wf (by decide)
theorem start : Statement .start := cmdWord_wf (by decide)
theorem stop : Statement .stop := cmdWord_wf (by decide)
theorem getbuf (b : Bool) : Statement (.getbuf b) := cmdWord_wf (by cases b <;> decide)
theorem record : Statement .record := cmdWord_wf (by decide)
theorem wrCfgUnit (v : Word) : Statement (.wrCfgUnit v) := writeAt_wf (by decide) v
theorem rdCfgUnit : Statement .rdCfgUnit := readAt_wf (by decide)
theorem wrCfgDpin (v : Word) : Statement (.wrCfgDpin v) := writeAt_wf (by decide) v
theorem rdCfgDpin : Statement .rdCfgDpin := readAt_wf (by decide)
theorem wrCfgCpin (v : Word) : Statement (.wrCfgCpin v) := writeAt_wf (by decide) v
theorem rdCfgCpin : Statement .rdCfgCpin := readAt_wf (by decide)
theorem wrCfgFreq (v : Word) : Statement (.wrCfgFreq v) := writeAt_wf (by decide) v
theorem rdCfgFreq : Statement .rdCfgFreq := readAt_wf (by decide)
theorem wrCfgCount (v : Word) : Statement (.wrCfgCount v) := writeAt_wf (by decide) v
theorem rdCfgCount : Statement .rdCfgCount := readAt_wf (by decide)
theorem wrCmd (v : Word) : Statement (.wrCmd v) := writeAt_wf (by decide) v
theorem rdStatus : Statement .rdStatus := readAt_wf (by decide)
theorem rdResult : Statement .rdResult := readAt_wf (by decide)
theorem rdBuf0Addr : Statement .rdBuf0Addr := readAt_wf (by decide)
theorem rdBuf1Addr : Statement .rdBuf1Addr := readAt_wf (by decide)
theorem rdSwapcnt : Statement .rdSwapcnt := readAt_wf (by decide)
theorem rdTeWaddr : Statement .rdTeWaddr := readAt_wf (by decide)
theorem rdTeRemain : Statement .rdTeRemain := readAt_wf (by decide)
theorem rdRxqLevel : Statement .rdRxqLevel := readAt_wf (by decide)

end Sys2Proof.Laws.EncodesWellFormed
end

