-- ==== Sys2Proof/Tests/Slice0.lean ====
section
/-! SUPPORT. Tests of the model against spec/95_test_vectors.md (each names its vector), the well-formedness
smoke test, and for every obligation with hypotheses a state and operands that meet them. -/

namespace Sys2Proof.Tests

open Sys2Proof Sys2Proof.Machine

/-! ## Well-formedness: for each check a term it refuses -/

theorem test_wf_params : Config.exampleParams.wf = true := by decide

theorem test_wf_params_ill :
    { Config.exampleParams with rxqDepth := 0 }.wf = false ∧
    { Config.exampleParams with numSauUnits := 0 }.wf = false ∧
    { Config.exampleParams with numPins := 2 }.wf = false ∧
    { Config.exampleParams with sauBase := 0x40000020#32 }.wf = false ∧
    { Config.exampleParams with dataBase := 0x20000002#32 }.wf = false ∧
    { Config.exampleParams with dataSize := 6 }.wf = false ∧
    { Config.exampleParams with dataSize := 0xF0000000 }.wf = false ∧
    { Config.exampleParams with sauBase := 0x20000040#32 }.wf = false ∧
    { Config.exampleParams with sampleLsb := 17 }.wf = false := by decide

/-- 95 section 2: the legal command words, and an illegal one for each clause of R94. -/
theorem test_wf_command_words :
    cmdWordWf 0x00000001#32 = true ∧ cmdWordWf 0x00000014#32 = true ∧ cmdWordWf 0x00000005#32 = true ∧
    cmdWordWf 0x00000000#32 = false ∧ cmdWordWf 0x00000006#32 = false ∧ cmdWordWf 0x00000012#32 = false ∧
    cmdWordWf 0x00000024#32 = false ∧ cmdWordWf 0x80000001#32 = false := by decide

/-- R95, R96: outside the window, a narrow access, an odd offset, a read of CMD, a write of STATUS, a reserved
offset. -/
theorem test_wf_transactions :
    BusTuple.wf 0x40000000#32 ⟨.read, 0x40000034#32, .w4, 0#32⟩ = true ∧
    BusTuple.wf 0x40000000#32 ⟨.read, 0x40000040#32, .w4, 0#32⟩ = false ∧
    BusTuple.wf 0x40000000#32 ⟨.read, 0x40000018#32, .w2, 0#32⟩ = false ∧
    BusTuple.wf 0x40000000#32 ⟨.read, 0x40000019#32, .w4, 0#32⟩ = false ∧
    BusTuple.wf 0x40000000#32 ⟨.read, 0x40000014#32, .w4, 0#32⟩ = false ∧
    BusTuple.wf 0x40000000#32 ⟨.write, 0x40000018#32, .w4, 0#32⟩ = false ∧
    BusTuple.wf 0x40000000#32 ⟨.write, 0x40000038#32, .w4, 0#32⟩ = false ∧
    Encoding.wf 0x40000000#32 (.cmdWord 0#32) = false ∧ Instr.wf (.wrCmd 0x12#32) = false ∧
    Instr.wf (.wrCfgUnit 0x12#32) = true := by decide

/-! ## Decoding: every constructor, from the words of 95 section 2 -/

theorem test_decode_commands :
    decodeCmd 0x00000001#32 = .ok .init ∧ decodeCmd 0x00000002#32 = .ok .start ∧
    decodeCmd 0x00000003#32 = .ok .stop ∧ decodeCmd 0x00000004#32 = .ok (.getbuf false) ∧
    decodeCmd 0x00000014#32 = .ok (.getbuf true) ∧ decodeCmd 0x00000005#32 = .ok .record :=
  ⟨rfl, rfl, rfl, rfl, rfl, rfl⟩

theorem test_decode_illegal_commands :
    decodeCmd 0x00000000#32 = .error .illegalCommand ∧ decodeCmd 0x00000006#32 = .error .illegalCommand ∧
    decodeCmd 0x0000000F#32 = .error .illegalCommand ∧ decodeCmd 0x00000010#32 = .error .illegalCommand ∧
    decodeCmd 0x00000012#32 = .error .illegalCommand ∧ decodeCmd 0x00000015#32 = .error .illegalCommand ∧
    decodeCmd 0x00000024#32 = .error .illegalCommand ∧ decodeCmd 0x80000001#32 = .error .illegalCommand ∧
    decodeCmd 0xFFFFFFFF#32 = .error .illegalCommand :=
  ⟨rfl, rfl, rfl, rfl, rfl, rfl, rfl, rfl, rfl⟩

/-- The BUS tuples of 95 section 2. -/
def wr (a v : Word) : Except Reject Instr := decode 0x40000000#32 (.bus ⟨.write, a, .w4, v⟩)

def rd (a : Word) : Except Reject Instr := decode 0x40000000#32 (.bus ⟨.read, a, .w4, 0#32⟩)

theorem test_decode_writes :
    wr 0x40000000#32 1#32 = .ok (.wrCfgUnit 1#32) ∧ wr 0x40000004#32 10#32 = .ok (.wrCfgDpin 10#32) ∧
    wr 0x40000008#32 11#32 = .ok (.wrCfgCpin 11#32) ∧ wr 0x4000000C#32 0x1F40#32 = .ok (.wrCfgFreq 8000#32) ∧
    wr 0x40000010#32 2#32 = .ok (.wrCfgCount 2#32) ∧ wr 0x40000014#32 0x14#32 = .ok (.wrCmd 0x14#32) :=
  ⟨rfl, rfl, rfl, rfl, rfl, rfl⟩

theorem test_decode_reads :
    rd 0x40000000#32 = .ok .rdCfgUnit ∧ rd 0x40000004#32 = .ok .rdCfgDpin ∧ rd 0x40000008#32 = .ok .rdCfgCpin ∧
    rd 0x4000000C#32 = .ok .rdCfgFreq ∧ rd 0x40000010#32 = .ok .rdCfgCount ∧ rd 0x40000018#32 = .ok .rdStatus ∧
    rd 0x4000001C#32 = .ok .rdResult ∧ rd 0x40000020#32 = .ok .rdBuf0Addr ∧ rd 0x40000024#32 = .ok .rdBuf1Addr ∧
    rd 0x40000028#32 = .ok .rdSwapcnt ∧ rd 0x4000002C#32 = .ok .rdTeWaddr ∧ rd 0x40000030#32 = .ok .rdTeRemain ∧
    rd 0x40000034#32 = .ok .rdRxqLevel :=
  ⟨rfl, rfl, rfl, rfl, rfl, rfl, rfl, rfl, rfl, rfl, rfl, rfl, rfl⟩

/-- V-HA3 to V-HA7, V-HA10: rejected by name; width and alignment come before everything else. -/
theorem test_decode_bad_accesses :
    rd 0x40000014#32 = .error .readOfWriteOnly ∧ wr 0x40000018#32 0#32 = .error .writeOfReadOnly ∧
    decode 0x40000000#32 (.bus ⟨.read, 0x40000019#32, .w1, 0#32⟩) = .error .badWidth ∧
    decode 0x40000000#32 (.bus ⟨.read, 0x40000018#32, .w2, 0#32⟩) = .error .badWidth ∧
    rd 0x4000001A#32 = .error .misaligned ∧ rd 0x40000038#32 = .error .reservedOffset ∧
    wr 0x4000003C#32 0#32 = .error .reservedOffset ∧
    decode 0x40000000#32 (.bus ⟨.write, 0x40000014#32, .w2, 0#32⟩) = .error .badWidth ∧
    rd 0x40000040#32 = .error .outsideWindow :=
  ⟨rfl, rfl, rfl, rfl, rfl, rfl, rfl, rfl, rfl⟩

/-- The rows of the opcode table: command words of 32 bits, offsets of 8, with the model's own bit 6 for a
write (log 9). -/
theorem test_decode_table_words :
    decodeTableWord 32 0x00000014 = some (.getbuf true) ∧ decodeTableWord 32 0 = none ∧
    decodeTableWord 8 0x14 = some (.wrCmd 0#32) ∧ decodeTableWord 8 0x18 = some .rdStatus ∧
    decodeTableWord 8 0x0C = some .rdCfgFreq ∧ decodeTableWord 40 0x3E804C = some (.wrCfgFreq 0x3E80#32) :=
  ⟨rfl, rfl, rfl, rfl, rfl, rfl⟩

/-! ## States -/

/-- The next state, if there is one. -/
def nextOf : Out → Option State
  | .next t => some t
  | .fault _ => none
  | .refused _ => none

/-- What STATUS reads in the next state. -/
def statusAfter (o : Out) : Option Word := (nextOf o).map statusWord

/-- A command is about to take micro-step `k`. -/
def atStep (op : CmdOp) (k : Nat) (s : State) : State :=
  { s with cmd := { s.cmd with op := op, cpc := BitVec.ofNat 32 k } }

/-- After reset, with the staging of 95 section 3.4: `u, d, c, f, n`. -/
def setup (u d c f n : Word) : State := { State.reset with stage := ⟨u, d, c, f, n⟩ }

/-- V-IN1: the session that INIT leaves with buffers 0x20001000 and 0x20001010 of four words (its zeros are not
listed). -/
def ready : State :=
  { setup 0#32 2#32 3#32 16000#32 4#32 with
    cfg := ⟨0#32, 2#32, 3#32, 4#32, 16000#32, 4#32⟩
    ses := ⟨.ready, 0x20001000#32, 0x20001010#32, false⟩
    irq := ⟨false, true⟩
    live := [⟨0x20001010#32, 16⟩, ⟨0x20001000#32, 16⟩] }

/-- V-ST1: that session after START. -/
def started : State :=
  { ready with
    ses := { ready.ses with sess := .active }
    sau := { ready.sau with en := true }
    te := ⟨true, 0x20001000#32, 4#32, 4#32⟩ }

/-- The first transfer is complete, the handler not yet entered. -/
def completed : State :=
  { started with te := ⟨false, 0x20001010#32, 0#32, 4#32⟩, irq := ⟨true, true⟩ }

/-- The handler has taken the steps up to `hpc`, for the first event. -/
def inHandler (h : Hpc) (te : Te) : State :=
  { completed with
    ses := { completed.ses with active := decide (h ≠ .entered) }
    te := te
    ch := ⟨true, h, true⟩ }

/-- With the given turns to come. -/
def onTurn (ts : List Turn) (s : State) : State := { s with env := { s.env with sched := ts } }

/-- With the given host operations to come. -/
def withHost (ops : List HostOp) (s : State) : State := { s with env := { s.env with hostOps := ops } }

/-- With the given queue. -/
def withQueue (q : List Word) (s : State) : State := { s with sau := { s.sau with rxq := q } }

/-- With the given allocator answers. -/
def withAnswers (as : List (Option Word)) (s : State) : State := { s with env := { s.env with allocs := as } }

/-! ## STATUS and reset (95 section 2, 3.11) -/

theorem test_status_words :
    statusWord State.reset = 0x00000000#32 ∧ statusWord ready = 0x00000041#32 ∧
    statusWord started = 0x0000005A#32 ∧ statusWord completed = 0x0000006A#32 ∧
    statusWord { started with ses := { started.ses with active := true } } = 0x0000005E#32 ∧
    statusWord { started with
      ses := { started.ses with active := true }, te := { started.te with busy := false }
      sau := { started.sau with rxovf := true } } = 0x000000CE#32 := by decide

/-- V-RS1: a session under way is reset; the bytes of memory stay. -/
theorem test_reset_event :
    (nextOf (step (onTurn [.reset] { started with mem := [(0x20001000, 1#8)] }))).map
      (fun t => (statusWord t, t.live, t.mem)) = some (0#32, [], [(0x20001000, 1#8)]) := by decide

/-! ## INIT (95 section 3.4) -/

/-- V-IN4 to V-IN16: the causes of I0 in order, and the legal neighbours. -/
theorem test_init_causes :
    initCause (setup 0#32 2#32 3#32 16000#32 0#32) = some .pvBadParam ∧
    initCause (setup 0#32 2#32 3#32 16000#32 0x40000000#32) = some .pvBadParam ∧
    initCause (setup 0#32 2#32 3#32 16000#32 0x3FFFFFFF#32) = none ∧
    initCause (setup 0#32 2#32 3#32 0#32 4#32) = some .pvBadParam ∧
    initCause (setup 2#32 2#32 3#32 16000#32 4#32) = some .pvBadParam ∧
    initCause (setup 1#32 2#32 3#32 16000#32 4#32) = none ∧
    initCause (setup 0#32 2#32 29#32 16000#32 4#32) = some .pvPin ∧
    initCause (setup 0#32 27#32 28#32 16000#32 4#32) = none ∧
    initCause (setup 0#32 30#32 3#32 16000#32 4#32) = some .pvPin ∧
    initCause (setup 0#32 3#32 3#32 16000#32 4#32) = some .pvPin ∧
    initCause (setup 0#32 4#32 3#32 16000#32 4#32) = some .pvPin ∧
    initCause (setup 0#32 5#32 3#32 16000#32 4#32) = none ∧
    initCause (setup 0#32 2#32 29#32 16000#32 0#32) = some .pvBadParam := by decide

/-- V-IN19: the zero fill of two one-word buffers, and V-IN3: the second allocation fails. -/
theorem test_init_fill_and_failure :
    (nextOf (exec .init (atStep .init 3 { setup 0#32 2#32 3#32 16000#32 1#32 with
      ses := ⟨.uninit, 0x20002000#32, 0x20002004#32, false⟩ }))).map (fun t => t.mem) =
      some ((List.range 8).map fun i => (0x20002000 + i, 0#8)) ∧
    (nextOf (exec .init (withAnswers [none] (atStep .init 2 { setup 0#32 2#32 3#32 16000#32 4#32 with
      ses := ⟨.uninit, 0x20001000#32, 0#32, false⟩, live := [⟨0x20001000#32, 16⟩] })))).map
      (fun t => (statusWord t, t.ses.buf0, t.live)) = some (0x00001000#32, 0#32, []) := by decide

/-! ## START, STOP (95 sections 3.5, 3.6) -/

/-- V-ST1: S2 arms four words at buffer 0; V-ST6: on a busy engine it faults. -/
theorem test_start_arms :
    (nextOf (exec .start (atStep .start 2 ready))).map (fun t => t.te) =
      some ⟨true, 0x20001000#32, 4#32, 4#32⟩ ∧
    statusAfter (exec .start (atStep .start 2 { ready with
      ses := { ready.ses with sess := .active }, te := { ready.te with busy := true } })) =
      some 0x000A0152#32 := by decide

/-- V-ST2, V-ST3, V-SP2, V-SP3: the checks. -/
theorem test_start_stop_checks :
    statusAfter (exec .start (atStep .start 0 State.reset)) = some 0x00050100#32 ∧
    statusAfter (exec .start (atStep .start 0 started)) = some 0x0004015A#32 ∧
    statusAfter (exec .stop (atStep .stop 0 ready)) = some 0x00030141#32 ∧
    statusAfter (exec .stop (atStep .stop 0 State.reset)) = some 0x00050100#32 := by decide

/-- V-SP4: T2 with three words to go keeps count, address and queue. -/
theorem test_stop_aborts :
    (nextOf (exec .stop (atStep .stop 2 (withQueue [6#32] { started with
      ses := { started.ses with active := true }, sau := { started.sau with en := false }
      te := ⟨true, 0x20001014#32, 3#32, 4#32⟩ })))).map (fun t => (statusWord t, t.te, t.sau.rxq)) =
      some (0x00000045#32, ⟨false, 0x20001014#32, 3#32, 4#32⟩, [6#32]) := by decide

/-! ## GETBUF, RECORD (95 sections 3.7, 3.8) -/

/-- V-GB1, V-GB2: the stable buffer; V-GB6: before INIT. -/
theorem test_getbuf_results :
    (nextOf (exec (.getbuf false) (atStep .getbuf 3 started))).map (fun t => t.rep.result) =
      some 0x20001010#32 ∧
    (nextOf (exec (.getbuf false) (atStep .getbuf 3 { started with
      ses := { started.ses with active := true } }))).map (fun t => t.rep.result) = some 0x20001000#32 ∧
    statusAfter (exec (.getbuf false) (atStep .getbuf 0 State.reset)) = some 0x00050100#32 := by decide

/-- V-GB3, V-GB5: G2 waits while `active` is the value of G1, and goes on when it differs. -/
theorem test_getbuf_waits :
    appWaiting (atStep .getbuf 2 started) = true ∧
    appWaiting (atStep .getbuf 2 { started with ses := { started.ses with active := true } }) = false := by
  decide

/-- V-RC4: the word left in the queue is stored first; V-RC2: in an active session RECORD faults. -/
theorem test_record :
    (nextOf (exec .record (atStep .record 2 (withQueue [0x99#32, 0x10#32] ready)))).map
      (fun t => (t.mem.load 0x20001000 4, t.sau.rxq, t.cmd.recK, t.cmd.cpc)) =
      some (0x99#32, [0x10#32], 1#32, 2#32) ∧
    statusAfter (exec .record (atStep .record 0 started)) = some 0x0002015A#32 := by decide

/-- V-RC4 and V-RC5: K1 with either value of RECORD_CLEARS_RXQ. -/
theorem test_record_clears :
    (nextOf (exec .record (atStep .record 1 (withQueue [0x99#32] ready)))).map (fun t => t.sau.rxq) =
      some [0x99#32] ∧
    (nextOf (exec .record (atStep .record 1 (withQueue [0x99#32] { ready with
      par := { ready.par with recordClearsRxq := true } })))).map (fun t => t.sau.rxq) = some [] := by decide

/-! ## The register window (95 section 3.9) -/

/-- V-HA1 and V-HA2 with a different value in every register, so that no two are confused. -/
def marked : State :=
  { withQueue [8#32, 9#32] ready with
    stage := ⟨1#32, 2#32, 3#32, 4#32, 5#32⟩
    rep := ⟨6#32, 7#32, .ok⟩
    te := ⟨false, 10#32, 11#32, 12#32⟩ }

/-- What a read returns. -/
def readBack (i : Instr) (s : State) : Option Word := (nextOf (exec i s)).map fun t => t.env.hostRd

theorem test_reads_of_configuration :
    readBack .rdCfgUnit marked = some 1#32 ∧ readBack .rdCfgDpin marked = some 2#32 ∧
    readBack .rdCfgCpin marked = some 3#32 ∧ readBack .rdCfgFreq marked = some 4#32 ∧
    readBack .rdCfgCount marked = some 5#32 := by decide

theorem test_reads_of_views :
    readBack .rdSwapcnt marked = some 6#32 ∧ readBack .rdResult marked = some 7#32 ∧
    readBack .rdBuf0Addr marked = some 0x20001000#32 ∧ readBack .rdBuf1Addr marked = some 0x20001010#32 ∧
    readBack .rdTeWaddr marked = some 10#32 ∧ readBack .rdTeRemain marked = some 11#32 ∧
    readBack .rdRxqLevel marked = some 2#32 ∧ readBack .rdStatus marked = some 0x00000041#32 := by decide

theorem test_writes_of_configuration :
    (nextOf (exec (.wrCfgUnit 1#32) State.reset)).map (fun t => t.stage) = some ⟨1#32, 0#32, 0#32, 0#32, 0#32⟩ ∧
    (nextOf (exec (.wrCfgDpin 1#32) State.reset)).map (fun t => t.stage) = some ⟨0#32, 1#32, 0#32, 0#32, 0#32⟩ ∧
    (nextOf (exec (.wrCfgCpin 1#32) State.reset)).map (fun t => t.stage) = some ⟨0#32, 0#32, 1#32, 0#32, 0#32⟩ ∧
    (nextOf (exec (.wrCfgFreq 1#32) State.reset)).map (fun t => t.stage) = some ⟨0#32, 0#32, 0#32, 1#32, 0#32⟩ ∧
    (nextOf (exec (.wrCfgCount 1#32) State.reset)).map (fun t => t.stage) =
      some ⟨0#32, 0#32, 0#32, 0#32, 1#32⟩ := by decide

/-- V-HA8, V-HA3: illegal word, illegal access; the step runs them from the host's program. -/
theorem test_window_faults :
    statusAfter (exec (.wrCmd 0#32) State.reset) = some 0x00080100#32 ∧
    statusAfter (step (onTurn [.app] (withHost [.bus ⟨.read, 0x40000014#32, .w4, 0#32⟩] State.reset))) =
      some 0x00090100#32 := by decide

/-- V-HA16: STATUS still reads after a fault. -/
theorem test_status_after_fault :
    readBack .rdStatus (faulted .pvStopInactive ready) = some 0x00030141#32 := by decide

/-- V-HA13: little-endian, byte by byte and by half words. -/
theorem test_host_loads :
    ([(0x20001000#32, Width.w1), (0x20001001#32, .w1), (0x20001002#32, .w1), (0x20001003#32, .w1),
      (0x20001002#32, .w2), (0x20001000#32, .w4)].map fun x =>
        (nextOf (hostLoad x.1 x.2 { ready with mem := Memory.store [] 0x20001000 0x12345678#32 4 })).map
          fun t => t.env.hostRd) =
      [some 0x78#32, some 0x56#32, some 0x34#32, some 0x12#32, some 0x1234#32, some 0x12345678#32] := by decide

/-! ## The SAU, the engine, the handler (95 sections 3.1 to 3.3) -/

/-- V-SAU6, V-SAU7: a push, and a word lost on a full queue. -/
theorem test_sau_word :
    (nextOf (sauWord { withQueue [1#32] started with env := { started.env with mic := [2#32] } })).map
      (fun t => (t.sau, t.env.micI)) = some (⟨true, true, [1#32, 2#32], false⟩, 1) ∧
    (nextOf (sauWord { withQueue [1#32, 2#32, 3#32, 4#32] started with
      env := { started.env with mic := [5#32] } })).map (fun t => (t.sau, t.env.micI)) =
      some (⟨true, true, [1#32, 2#32, 3#32, 4#32], true⟩, 1) := by decide

/-- V-SAU2, V-SAU3: what clearing and restarting leave alone. -/
theorem test_sau_clear_restart :
    (sauClear { withQueue [7#32, 8#32] ready with sau := ⟨false, false, [7#32, 8#32], true⟩ }).sau =
      ⟨false, false, [], true⟩ ∧
    (sauRestart { ready with sau := ⟨true, true, [7#32], false⟩ }).sau = ⟨true, false, [7#32], false⟩ := by
  decide

/-- V-SAU5, V-TE1, V-TE2, V-TE9: unit primitives by themselves (30 R100, log 23). -/
theorem test_primitives :
    (nextOf (perform .sauPop (withQueue [5#32, 6#32] ready))).map (fun t => t.sau.rxq) = some [6#32] ∧
    (nextOf (perform (.teArm 0x20001000#32 4#32) ready)).map (fun t => t.te) =
      some ⟨true, 0x20001000#32, 4#32, 4#32⟩ ∧
    (nextOf (perform (.teArm 0x20001000#32 4#32) started)).map (fun t => (t.flt, t.te)) =
      some (⟨true, .teMisuse⟩, started.te) ∧
    (nextOf (perform (.teRetrigger 0x20001010#32) { ready with te := ⟨false, 0#32, 0#32, 4#32⟩ })).map
      (fun t => t.te) = some ⟨true, 0x20001010#32, 4#32, 4#32⟩ := by decide

/-- V-TE3, V-TE4: the last but one word and the last of a transfer. -/
theorem test_te_copy :
    (nextOf (teCopy (withQueue [3#32, 4#32] { started with te := ⟨true, 0x20001008#32, 2#32, 4#32⟩ }))).map
      (fun t => (t.te, t.irq.pend, t.sau.rxq, t.mem.load 0x20001008 4)) =
      some (⟨true, 0x2000100C#32, 1#32, 4#32⟩, false, [4#32], 3#32) ∧
    (nextOf (teCopy (withQueue [4#32] { started with te := ⟨true, 0x2000100C#32, 1#32, 4#32⟩ }))).map
      (fun t => (t.te, t.irq.pend, t.sau.rxq, t.mem.load 0x2000100C 4)) =
      some (⟨false, 0x20001010#32, 0#32, 4#32⟩, true, [], 4#32) := by decide

/-- V-TE5, V-TE6: no step on an empty queue or an idle engine. -/
theorem test_te_not_enabled :
    actionOf .te started = .idle ∧ actionOf .te (withQueue [9#32] ready) = .idle ∧
    actionOf .te (withQueue [9#32] started) = .teCopy := by decide

/-- V-CH1 to V-CH4: the four steps of the handler for the first event. -/
theorem test_handler_steps :
    (nextOf (chEnter completed)).map (fun t => (t.ch, t.ses.active)) = some (⟨true, .entered, true⟩, false) ∧
    (nextOf (chPublish (inHandler .entered completed.te))).map (fun t => (t.ses.active, t.rep.swapcnt)) =
      some (true, 1#32) ∧
    (nextOf (chRetarget (inHandler .published completed.te))).map (fun t => t.te) =
      some ⟨true, 0x20001010#32, 4#32, 4#32⟩ ∧
    (nextOf (chAck (inHandler .retargeted ⟨true, 0x20001010#32, 4#32, 4#32⟩))).map
      (fun t => (t.irq, t.ch)) = some (⟨false, true⟩, ⟨false, .idle, true⟩) := by decide

/-- V-CH5: the count saturates; V-CH8: the retarget of a busy engine faults inside the handler. -/
theorem test_handler_corners :
    (nextOf (chPublish { inHandler .entered completed.te with rep := ⟨0xFFFFFFFF#32, 0#32, .ok⟩ })).map
      (fun t => t.rep.swapcnt) = some 0xFFFFFFFF#32 ∧
    (nextOf (chRetarget (inHandler .published started.te))).map (fun t => (t.flt, t.ch.inHandler)) =
      some (⟨true, .teMisuse⟩, true) := by decide

/-- V-CH6: when the handler is not entered; V-CH10: APP is held in it. -/
theorem test_handler_enabling :
    actionOf .irq { completed with irq := ⟨true, false⟩ } = .idle ∧ actionOf .irq started = .idle ∧
    actionOf .irq completed = .chEnter ∧
    actionOf .app (withHost [.cmd 3#32] (inHandler .entered completed.te)) = .idle := by decide

/-! ## Samples (95 section 3.10) -/

theorem test_samples :
    ([0x00000000#32, 0x00008000#32, 0x00010000#32, 0x20000000#32, 0x3FFF8000#32, 0x3FFF7FFF#32, 0x40000000#32,
      0x7FFF8000#32, 0x7FFF0000#32, 0x80000000#32, 0xC0000000#32, 0x00007FFF#32, 0xFFFFFFFF#32,
      0x12345678#32].map (sample 15)) =
      [0, 1, 2, 16384, 32767, 32766, -32768, -1, -2, 0, -32768, 0, -1, 9320] := by decide

/-! ## Witnesses: for every obligation with hypotheses, states and operands that meet all of them together; one
for each clause, at the boundary of its range where it has one. Named after the obligation. -/

/-- The host of the reset state may act. -/
theorem witness_host_may_act : HostMayAct State.reset ∧ HostMayAct ready ∧ HostMayAct started :=
  ⟨⟨rfl, rfl, rfl⟩, ⟨rfl, rfl, rfl⟩, ⟨rfl, rfl, rfl⟩⟩

theorem witness_EncodeUndoesDecode :
    decode 0x40000000#32 (.cmdWord 0x14#32) = .ok (.getbuf true) ∧
    decode 0x40000000#32 (.bus ⟨.write, 0x40000010#32, .w4, 7#32⟩) = .ok (.wrCfgCount 7#32) ∧
    decode 0x40000000#32 (.bus ⟨.read, 0x40000034#32, .w4, 7#32⟩) = .ok .rdRxqLevel := ⟨rfl, rfl, rfl⟩

/-- The last legal offset of each kind, and the first of each cause of BAD_ACCESS; all inside the window. -/
theorem witness_BadAccessFaults :
    HostMayAct State.reset ∧ State.reset.par.sauBase = 0x40000000#32 ∧
    (0x40000034#32 - State.reset.par.sauBase).toNat = 0x34 ∧
    (0x4000003F#32 - State.reset.par.sauBase).toNat = 0x3F ∧
    nextOf (runEncoding (.bus ⟨.read, 0x40000034#32, .w4, 0#32⟩) State.reset) = some State.reset ∧
    nextOf (runEncoding (.bus ⟨.read, 0x40000038#32, .w4, 0#32⟩) State.reset) =
      some (faulted .badAccess State.reset) ∧
    nextOf (runEncoding (.bus ⟨.write, 0x40000034#32, .w4, 0#32⟩) State.reset) =
      some (faulted .badAccess State.reset) ∧
    nextOf (runEncoding (.bus ⟨.write, 0x40000018#32, .w4, 0#32⟩) State.reset) =
      some (faulted .badAccess State.reset) ∧
    nextOf (runEncoding (.bus ⟨.write, 0x40000014#32, .w4, 0#32⟩) State.reset) =
      some (faulted .illegalCmd State.reset) :=
  ⟨⟨rfl, rfl, rfl⟩, rfl, by decide, by decide, by decide, by decide, by decide, by decide, by decide⟩

/-- The illegal words of R94 at their boundaries: `op` 0, 6 and 15; bits 5 and 31; `b` with `op` 3 and 5. -/
theorem witness_CommandWordWrite :
    HostMayAct State.reset ∧ (0x0#32).extractLsb' 0 4 = 0#4 ∧ 6 ≤ ((0x6#32).extractLsb' 0 4).toNat ∧
    6 ≤ ((0xF#32).extractLsb' 0 4).toNat ∧ (0x24#32).extractLsb' 5 27 ≠ 0#27 ∧
    (0x80000001#32).extractLsb' 5 27 ≠ 0#27 ∧ (0x13#32).getLsbD 4 = true ∧ (0x13#32).extractLsb' 0 4 ≠ 4#4 ∧
    (0x15#32).getLsbD 4 = true ∧ (0x15#32).extractLsb' 0 4 ≠ 4#4 :=
  ⟨⟨rfl, rfl, rfl⟩, by decide, by decide, by decide, by decide, by decide, by decide, by decide, by decide,
    by decide⟩

/-- A decoded instruction, a command word and a transaction that do not decode, a transaction outside the window, a
load and a store. -/
theorem witness_StepRunsHostTransaction :
    (∀ op ∈ [HostOp.cmd 1#32, .cmd 0#32, .bus ⟨.read, 0x40000014#32, .w4, 0#32⟩,
        .bus ⟨.read, 0x40000040#32, .w4, 0#32⟩, .load 0x20001000#32 .w4, .store 0x20001001#32 .w1 7#32],
      let s := onTurn [.app] (withHost [op] ready)
      s.env.sched = .app :: [] ∧ HostMayAct s ∧ deferSpent s = false ∧ s.env.hostOps = op :: []) ∧
    HostOp.cmd 1#32 = hostOpOf (.cmdWord 1#32) ∧ decode ready.par.sauBase (.cmdWord 1#32) = .ok .init ∧
    cmdWordWf 0#32 = false ∧ (0x40000014#32 - ready.par.sauBase).toNat < 64 ∧
    BusTuple.wf ready.par.sauBase ⟨.read, 0x40000014#32, .w4, 0#32⟩ = false ∧
    64 ≤ (0x40000040#32 - ready.par.sauBase).toNat := by
  unfold HostMayAct; decide

/-- V-HA8, V-HA13, V-HA14 in a step: a load returns the word, a store changes its byte. -/
theorem test_step_host_memory :
    (nextOf (step (onTurn [.app] (withHost [.load 0x20001000#32 .w4] { ready with
      mem := Memory.store [] 0x20001000 0x12345678#32 4 })))).map (fun t => (t.env.hostRd, t.env.hostOps)) =
      some (0x12345678#32, []) ∧
    (nextOf (step (onTurn [.app] (withHost [.store 0x20001001#32 .w1 7#32] ready)))).map (fun t => t.mem) =
      some [(0x20001001, 7#8)] := by decide

theorem witness_StepRunsCommandMicroStep :
    let s := onTurn [.app] (atStep .start 2 ready)
    s.env.sched = .app :: [] ∧ s.flt.fault = false ∧ s.ch.inHandler = false ∧ deferSpent s = false ∧
    inProgress s.cmd = some .start ∧ appWaiting s = false := by decide

/-- A state on each agent's turn, with and without its step enabled. -/
theorem witness_StepTakesTheTurn :
    (onTurn [.sau] started).env.sched = .sau :: [] ∧ started.sau.en = true ∧ ready.sau.en = false ∧
    (onTurn [.te] started).env.sched = .te :: [] ∧
    (onTurn [.irq] completed).env.sched = .irq :: [] ∧ completed.ch.inHandler = false ∧
    (onTurn [.irq] (inHandler .entered completed.te)).ch.inHandler = true ∧
    (inHandler .entered completed.te).ch.hpc = .entered ∧
    (inHandler .published completed.te).ch.hpc = .published ∧
    (inHandler .retargeted completed.te).ch.hpc = .retargeted ∧
    (onTurn [.app] (inHandler .entered completed.te)).env.sched = .app :: [] ∧
    (inHandler .entered completed.te).flt.fault = false := by decide

/-- With a bound of no APP step at all on the deferral, an event that is pending and enabled holds APP back. A queue
with a word to pop, an idle engine and a busy one for the primitives. -/
theorem witness_EnablingConditions :
    (started.flt.fault = false ∧ ∃ i, actionOf .app (atStep .start 2 started) = .micro i) ∧
    (∃ op, actionOf .app (withHost [.cmd 1#32] State.reset) = .host op) ∧
    (let s := { completed with par := { completed.par with irqMaxDefer := some 0 } }
     s.par.irqMaxDefer = some 0 ∧ 0 ≤ s.env.irqDefer ∧ s.irq.pend = true ∧ s.irq.en = true ∧
       s.flt.fault = false) ∧
    (∃ t, sauPop (withQueue [5#32] ready) = some (5#32, t)) ∧
    (∃ t, teArm 0x20001000#32 4#32 ready = some t) ∧ (∃ t, teRetrigger 0x20001010#32 completed = some t) ∧
    started.te.busy = true :=
  ⟨⟨rfl, .start, by decide⟩, ⟨.cmd 1#32, by decide⟩, by decide, ⟨_, rfl⟩, ⟨_, rfl⟩, ⟨_, rfl⟩, rfl⟩

theorem witness_PlacedWordRuns :
    HostMayAct State.reset ∧ deferSpent State.reset = false ∧ decodeTableWord 8 0x18 = some .rdStatus :=
  ⟨⟨rfl, rfl, rfl⟩, rfl, rfl⟩

/-- STATUS is read in a state without a fault, and after one. -/
theorem witness_ReadStatusRegister :
    HostMayAct started ∧ (faulted .pvDoubleStart started).flt.fault = true := ⟨⟨rfl, rfl, rfl⟩, rfl⟩

theorem witness_RegisterAccessFrame :
    commandOf (.wrCfgFreq 1#32) = none ∧ (∃ t, exec (.wrCfgFreq 1#32) State.reset = .next t) ∧
    commandOf (.wrCmd 1#32) = none ∧ (∃ t, exec (.wrCmd 1#32) State.reset = .next t) ∧
    commandOf .rdResult = none ∧ (∃ t, exec .rdResult State.reset = .next t) ∧
    ¬∃ v, Instr.rdResult = .wrCmd v ∨ Instr.rdResult = .wrCfgUnit v ∨ Instr.rdResult = .wrCfgDpin v ∨
      Instr.rdResult = .wrCfgCpin v ∨ Instr.rdResult = .wrCfgFreq v ∨ Instr.rdResult = .wrCfgCount v :=
  ⟨rfl, ⟨_, rfl⟩, rfl, ⟨_, rfl⟩, rfl, ⟨_, rfl⟩, by simp⟩

/-- INIT's parameters are legal with the smallest and with the largest count. -/
theorem witness_init_legal :
    InitLegal Config.exampleParams (setup 0#32 2#32 3#32 16000#32 1#32).stage ∧
    InitLegal Config.exampleParams (setup 1#32 27#32 28#32 1#32 0x3FFFFFFF#32).stage := by
  unfold InitLegal; decide

/-- The check step of each command in each session. -/
theorem witness_CommandLegality :
    (∀ op ∈ [CmdOp.init, .start, .stop, .getbuf, .record], ∀ s ∈ [setup 0#32 2#32 3#32 1#32 4#32, ready, started],
      (atStep op 0 s).flt.fault = false ∧ (atStep op 0 s).ch.inHandler = false ∧ (atStep op 0 s).cmd.op = op ∧
      (atStep op 0 s).cmd.cpc.toNat = 0) ∧
    (setup 0#32 2#32 3#32 1#32 4#32).ses.sess = .uninit ∧ ready.ses.sess = .ready ∧ started.ses.sess = .active ∧
    InitLegal Config.exampleParams (setup 0#32 2#32 3#32 1#32 4#32).stage := by
  refine ⟨by decide, by decide, by decide, by decide, ?_⟩
  unfold InitLegal; decide

/-- Staging registers of each group of causes: no word, one word too many, no frequency, the first absent unit; the
first clock pin without a word-select pin, the first absent data pin, a data pin on the clock or word-select pin. -/
theorem witness_InitChecksInOrder :
    (atStep .init 0 ready).ses.sess ≠ .uninit ∧
    (∀ x ∈ [setup 0#32 2#32 3#32 1#32 0#32, setup 0#32 2#32 3#32 1#32 0x40000000#32, setup 0#32 2#32 3#32 0#32 4#32,
        setup 2#32 2#32 3#32 1#32 4#32], x.ses.sess = .uninit ∧
      (x.stage.count.toNat = 0 ∨ 2 ^ 30 - 1 < x.stage.count.toNat ∨ x.stage.freq = 0#32 ∨
        x.par.numSauUnits ≤ x.stage.unit.toNat)) ∧
    (∀ x ∈ [setup 0#32 2#32 29#32 1#32 4#32, setup 0#32 30#32 3#32 1#32 4#32, setup 0#32 3#32 3#32 1#32 4#32,
        setup 0#32 4#32 3#32 1#32 4#32],
      x.ses.sess = .uninit ∧ 1 ≤ x.stage.count.toNat ∧ x.stage.count.toNat ≤ 2 ^ 30 - 1 ∧ x.stage.freq ≠ 0#32 ∧
      x.stage.unit.toNat < x.par.numSauUnits ∧
      (x.par.numPins - 1 ≤ x.stage.cpin.toNat ∨ x.par.numPins ≤ x.stage.dpin.toNat ∨
        x.stage.dpin = x.stage.cpin ∨ x.stage.dpin = x.stage.cpin + 1#32)) := by decide

/-- A command at each of its micro-steps. -/
theorem witness_at_micro_steps :
    (∀ k < 8, AtMicroStep .init k (atStep .init k State.reset)) ∧
    (∀ k < 5, AtMicroStep .start k (atStep .start k ready)) ∧
    (∀ k < 3, AtMicroStep .stop k (atStep .stop k started)) ∧
    (∀ k < 4, AtMicroStep .getbuf k (atStep .getbuf k started)) ∧
    (∀ k < 4, AtMicroStep .record k (atStep .record k ready)) := by
  unfold AtMicroStep; decide

/-- The staging of V-IN1. -/
def staged : State := setup 0#32 2#32 3#32 16000#32 4#32

/-- Two allowed answers, the second at the very end of the first region; and the last place of data memory. -/
theorem witness_allowed_answers :
    AllocAllows Config.exampleParams [] 16 0x20001000#32 ∧
    AllocAllows Config.exampleParams [⟨0x20001000#32, 16⟩] 16 0x20001010#32 ∧
    AllocAllows Config.exampleParams [] 16 0x2003FFF0#32 ∧
    ¬AllocAllows Config.exampleParams [⟨0x20001000#32, 16⟩] 16 0x2000100C#32 := by
  unfold AllocAllows; decide

theorem witness_InitMicroSteps :
    (withAnswers [none] (atStep .init 1 staged)).env.allocs = none :: [] ∧
    (withAnswers [some 0x20001000#32] (atStep .init 1 staged)).env.allocs = some 0x20001000#32 :: [] ∧
    AllocAllows staged.par staged.live (4 * staged.stage.count.toNat) 0x20001000#32 ∧
    (let s := { staged with ses := ⟨.uninit, 0x20001000#32, 0#32, false⟩, live := [⟨0x20001000#32, 16⟩] }
     AtMicroStep .init 2 (withAnswers [none] (atStep .init 2 s)) ∧
     (withAnswers [none] (atStep .init 2 s)).env.allocs = none :: [] ∧
     (withAnswers [some 0x20001010#32] (atStep .init 2 s)).env.allocs = some 0x20001010#32 :: [] ∧
     AllocAllows s.par s.live (4 * s.stage.count.toNat) 0x20001010#32) ∧
    RegionOk ready.par ready.ses.buf0 ready.stage.count.toNat ∧
    RegionOk ready.par ready.ses.buf1 ready.stage.count.toNat := by
  unfold AllocAllows RegionOk AtMicroStep; decide

theorem witness_InitGivesReadySession :
    let s := withAnswers [some 0x20001000#32, some 0x20001010#32] staged
    HostMayAct s ∧ s.ses.sess = .uninit ∧ InitLegal s.par s.stage ∧
    s.env.allocs = some 0x20001000#32 :: some 0x20001010#32 :: [] ∧
    AllocAllows s.par s.live (4 * s.stage.count.toNat) 0x20001000#32 ∧
    AllocAllows s.par ({ base := 0x20001000#32, size := 4 * s.stage.count.toNat } :: s.live)
      (4 * s.stage.count.toNat) 0x20001010#32 := by
  unfold HostMayAct InitLegal AllocAllows; decide

theorem witness_InitOutOfMemory :
    HostMayAct staged ∧ staged.ses.sess = .uninit ∧ InitLegal staged.par staged.stage ∧
    (withAnswers [none] staged).env.allocs = none :: [] ∧
    (withAnswers [some 0x20001000#32, none] staged).env.allocs = some 0x20001000#32 :: none :: [] ∧
    AllocAllows staged.par staged.live (4 * staged.stage.count.toNat) 0x20001000#32 ∧
    staged.ses.buf0 = 0#32 ∧ (∀ r ∈ staged.live, 4 ≤ r.size) := by
  unfold HostMayAct InitLegal AllocAllows; decide

theorem witness_StartMicroSteps :
    (atStep .start 2 ready).te.busy = false ∧ (atStep .start 2 started).te.busy = true := by decide

theorem witness_StartArmsFirstTransfer :
    HostMayAct ready ∧ ready.ses.sess = .ready ∧ ready.te.busy = false ∧
    { ready with te := started.te }.te.busy = true := ⟨⟨rfl, rfl, rfl⟩, rfl, rfl, rfl⟩

theorem witness_StopEndsSession : HostMayAct started ∧ started.ses.sess = .active := ⟨⟨rfl, rfl, rfl⟩, rfl⟩

theorem witness_GetbufReturnsStableBuffer :
    (atStep .getbuf 2 started).cmd.b = false ∧ (started.ses.active = (atStep .getbuf 2 started).cmd.gbA0) ∧
    HostMayAct started ∧ started.ses.sess ≠ .uninit := by
  unfold HostMayAct; decide

/-- K2 of the last word of a buffer, on an empty and on a filled queue. -/
theorem witness_RecordMicroSteps :
    let s := { atStep .record 2 (withQueue [9#32] ready) with cmd := ⟨.record, 2#32, false, false, 3#32⟩ }
    AtMicroStep .record 2 s ∧ s.sau.rxq = 9#32 :: [] ∧ RegionOk s.par s.ses.buf0 s.cfg.n.toNat ∧
    s.cmd.recK.toNat < s.cfg.n.toNat ∧ (atStep .record 2 ready).sau.rxq = [] := by
  unfold AtMicroStep RegionOk; decide

/-- A full queue of exactly `cfg.n` words. -/
theorem witness_RecordStoresQueuedWords :
    let s := withQueue [1#32, 2#32, 3#32, 4#32] ready
    HostMayAct s ∧ s.ses.sess = .ready ∧ s.par.recordClearsRxq = false ∧ 1 ≤ s.cfg.n.toNat ∧
    RegionOk s.par s.ses.buf0 s.cfg.n.toNat ∧ s.cfg.n.toNat ≤ s.sau.rxq.length ∧ s.sau.rxq[3]? = some 4#32 := by
  unfold HostMayAct RegionOk; decide

theorem witness_NonStoringCommandsFrame :
    (∃ t, exec .start (atStep .start 2 ready) = .next t) ∧ (∃ t, exec .stop (atStep .stop 2 started) = .next t) ∧
    (∃ t, exec (.getbuf false) (atStep .getbuf 3 started) = .next t) ∧
    ∃ t, exec (.getbuf true) { started with cmd := ⟨.getbuf, 1#32, true, false, 0#32⟩ } = .next t :=
  ⟨⟨_, rfl⟩, ⟨_, rfl⟩, ⟨_, rfl⟩, ⟨_, rfl⟩⟩

/-- At a storing micro-step and at one that stores nothing. -/
theorem witness_StoringCommandsFrame :
    (∃ t, exec .init (atStep .init 3 { staged with ses := ready.ses }) = .next t) ∧
    (∃ t, exec .init (atStep .init 4 staged) = .next t) ∧
    (∃ t, exec .record (atStep .record 2 (withQueue [9#32] ready)) = .next t) ∧
    ∃ t, exec .record (atStep .record 3 ready) = .next t :=
  ⟨⟨_, rfl⟩, ⟨_, rfl⟩, ⟨_, rfl⟩, ⟨_, rfl⟩⟩

/-- A decided stream and a free one; a queue with one place left and a full one. -/
theorem witness_SauWordPushes :
    started.flt.fault = false ∧ started.env.mic = [] ∧
    { started with env := { started.env with mic := [2#32] } }.env.mic = 2#32 :: [] ∧
    (withQueue [1#32, 2#32, 3#32] started).sau.rxq.length < started.par.rxqDepth ∧
    ¬(withQueue [1#32, 2#32, 3#32, 4#32] started).sau.rxq.length < started.par.rxqDepth := by decide

theorem witness_SauPrimitives : (withQueue [5#32, 6#32] ready).sau.rxq = 5#32 :: [6#32] := by decide

theorem witness_TransferEnginePrimitives : ready.te.busy = false ∧ started.te.busy = true := by decide

/-- The last word of a transfer at the last word of data memory. -/
theorem witness_TransferEngineCopies :
    let s := withQueue [4#32] { started with te := ⟨true, 0x2003FFFC#32, 1#32, 4#32⟩ }
    s.flt.fault = false ∧ s.te.busy = true ∧ s.sau.rxq = 4#32 :: [] ∧ s.te.waddr.toNat % 4 = 0 ∧
    s.par.dataBase.toNat ≤ s.te.waddr.toNat ∧ s.te.waddr.toNat + 4 ≤ s.par.dataBase.toNat + s.par.dataSize ∧
    s.te.remain = 1#32 := by decide

theorem witness_TransferCopiesQueueInOrder :
    let s := onTurn [.te, .te, .te, .te] (withQueue [1#32, 2#32, 3#32, 4#32] started)
    s.flt.fault = false ∧ s.te.busy = true ∧ 1 ≤ s.te.remain.toNat ∧
    RegionOk s.par s.te.waddr s.te.remain.toNat ∧ s.te.remain.toNat ≤ s.sau.rxq.length ∧
    s.env.sched = List.replicate s.te.remain.toNat .te ++ [] ∧ s.sau.rxq[3]? = some 4#32 := by
  unfold RegionOk; decide

/-! ### Fair runs -/

/-- The run in which the environment lets one agent step at every turn. -/
def runOf (t : Turn) (s : State) : Nat → State
  | 0 => s
  | k + 1 => (nextOf (step (scheduled t (runOf t s k)))).getD s

/-- It goes on, and is fair, if it comes to rest in a state in which nobody has a step. -/
theorem run_comes_to_rest {t : Turn} {s : State} {n : Nat}
    (runs : ∀ k ≤ n, step (scheduled t (runOf t s k)) = .next (runOf t s (k + 1)))
    (rest : runOf t s (n + 1) = runOf t s n) (idle : ∀ u ≠ .reset, actionOf u (runOf t s n) = .idle) :
    RunsBy (fun _ => t) (runOf t s) ∧ WeaklyFair (fun _ => t) (runOf t s) := by
  have stay : ∀ k, runOf t s (n + k) = runOf t s n := by
    intro k
    induction k with
    | zero => rfl
    | succ k ih => rw [← rest]; exact congrArg (fun x => (nextOf (step (scheduled t x))).getD s) ih
  refine ⟨fun k => ?_, fun u hu k h => ?_⟩
  · rcases Nat.le_total k n with hk | hk
    · exact runs k hk
    · obtain ⟨m, rfl⟩ := Nat.exists_eq_add_of_le hk
      show step (scheduled t (runOf t s (n + m))) = .next (runOf t s (n + (m + 1)))
      rw [stay m, stay (m + 1), ← rest]
      exact (congrArg (fun x => step (scheduled t x)) rest).trans (runs n (Nat.le_refl n))
  · refine absurd (idle u hu) ?_
    rw [← stay k]
    exact h (n + k) (Nat.le_add_left k n)

/-- After a STOP, with the event of the last transfer still pending (70 R293). -/
def stopped : State :=
  { completed with ses := { completed.ses with sess := .ready }, sau := { completed.sau with en := false } }

/-- RECORD about to store the last word of its buffer. -/
def lastWord : State :=
  { withQueue [9#32] ready with
    sau := ⟨true, false, [9#32], false⟩, cmd := ⟨.record, 2#32, false, false, 3#32⟩ }

theorem fair_handler_run :
    RunsBy (fun _ => .irq) (runOf .irq stopped) ∧ WeaklyFair (fun _ => .irq) (runOf .irq stopped) := by
  refine run_comes_to_rest (n := 5) ?_ rfl ?_
  · intro k hk; interval_cases k <;> rfl
  · intro u hu; cases u <;> first | rfl | exact absurd rfl hu

theorem fair_record_run :
    RunsBy (fun _ => .app) (runOf .app lastWord) ∧ WeaklyFair (fun _ => .app) (runOf .app lastWord) := by
  refine run_comes_to_rest (n := 3) ?_ rfl ?_
  · intro k hk; interval_cases k <;> rfl
  · intro u hu; cases u <;> first | rfl | exact absurd rfl hu

/-- A fair run through the handler, pending at its start and entered after one step, and one that ends a RECORD. -/
theorem witness_FairRunsProgress :
    (RunsBy (fun _ => .irq) (runOf .irq stopped) ∧ WeaklyFair (fun _ => .irq) (runOf .irq stopped) ∧
      (∀ k : Nat, (fun _ => Turn.irq) k ≠ .reset) ∧
      (runOf .irq stopped 0).irq.pend = true ∧ (runOf .irq stopped 0).irq.en = true ∧
      (runOf .irq stopped 1).ch.inHandler = true ∧ (runOf .irq stopped 1).ch.hpc ≠ .idle) ∧
    (RunsBy (fun _ => .app) (runOf .app lastWord) ∧ WeaklyFair (fun _ => .app) (runOf .app lastWord) ∧
      (∀ k : Nat, (fun _ => Turn.app) k ≠ .reset) ∧
      (let s := runOf .app lastWord 0
       s.cmd.op = .record ∧ s.cmd.cpc.toNat = 2 ∧ s.cmd.recK.toNat < s.cfg.n.toNat ∧ s.sau.en = true ∧
         s.te.busy = false ∧ s.irq.pend = false ∧ s.ch.inHandler = false ∧ s.flt.fault = false ∧
         1 ≤ s.par.rxqDepth)) :=
  ⟨⟨fair_handler_run.1, fair_handler_run.2, fun _ => by simp, rfl, rfl, rfl, by decide⟩,
    ⟨fair_record_run.1, fair_record_run.2, fun _ => by simp, by decide⟩⟩

/-- The invariant holds of a session that has just started. -/
theorem witness_block_inv_started : BlockInv started where
  memory := rfl
  uninit := by decide
  buffers := by unfold BuffersOk RegionOk; decide
  queue := by decide
  engine := fun _ => ⟨by decide, by decide, false, rfl⟩
  armed := by decide
  handler := by decide
  command := rfl
  counter := by decide

/-- And with words in the queue, on any agent's turn. -/
theorem witness_block_inv_queue (q : List Word) (hq : q.length ≤ 4) (ts : List Turn) :
    BlockInv (onTurn ts (withQueue q started)) where
  memory := rfl
  uninit := witness_block_inv_started.uninit
  buffers := witness_block_inv_started.buffers
  queue := hq
  engine := witness_block_inv_started.engine
  armed := witness_block_inv_started.armed
  handler := witness_block_inv_started.handler
  command := rfl
  counter := witness_block_inv_started.counter

theorem witness_EngineStaysInBuffer :
    let s := onTurn [.te] (withQueue [1#32] started)
    BlockInv s ∧ s.flt.fault = false ∧ s.te.busy = true ∧ s.sau.rxq ≠ [] :=
  ⟨witness_block_inv_queue [1#32] (by decide) [.te], rfl, rfl, by decide⟩

theorem witness_HandlerSteps :
    completed.flt.fault = false ∧ (inHandler .published completed.te).te.busy = false ∧
    (inHandler .published started.te).te.busy = true := by decide

theorem witness_HandlerInvocationSwaps :
    let s := onTurn [.irq, .irq, .irq, .irq] completed
    s.flt.fault = false ∧ s.ch.inHandler = false ∧ s.irq.pend = true ∧ s.irq.en = true ∧ s.te.busy = false ∧
    s.env.sched = .irq :: .irq :: .irq :: .irq :: [] := by decide

/-- The invariant inside the handler: just entered for the first event. -/
theorem witness_block_inv_entered : BlockInv (onTurn [.irq] (inHandler .entered completed.te)) where
  memory := rfl
  uninit := by decide
  buffers := witness_block_inv_started.buffers
  queue := by decide
  engine := by intro h; cases h
  armed := by decide
  handler := by decide
  command := rfl
  counter := by decide

theorem witness_HandlerSnapshotKept :
    let s := onTurn [.irq] (inHandler .entered completed.te)
    BlockInv s ∧ HandlerSnapshot s ∧ s.ch.hpc = .entered ∧ ∃ t, step s = .next t :=
  ⟨witness_block_inv_entered, fun _ => rfl, rfl, ⟨_, rfl⟩⟩

theorem witness_LostCompletionEvent :
    let s := onTurn [.irq] (inHandler .retargeted ⟨false, 0x20001020#32, 0#32, 4#32⟩)
    LosesEvent s ∧ s.flt.fault = false ∧ s.irq.pend = true ∧ s.env.sched = .irq :: [] :=
  ⟨⟨rfl, rfl, rfl⟩, rfl, rfl, rfl⟩

theorem witness_BlockingGetbufHangs :
    let s := { ready with cmd := ⟨.getbuf, 2#32, true, false, 0#32⟩ }
    Hung s ∧ NoReset s := by
  unfold Hung NoReset; decide

/-- After a recorded fault, with an operation that stops and with the one that does not. -/
theorem witness_FaultMechanism :
    (faulted .pvStopInactive ready).flt.fault = true ∧ Instr.init ≠ .rdStatus := by decide

theorem witness_FaultRecordKept :
    let s := onTurn [.app] (withHost [.bus ⟨.read, 0x40000018#32, .w4, 0#32⟩] (faulted .pvStopInactive ready))
    s.flt.fault = true ∧ NoReset s ∧ (∃ t, step s = .next t) ∧ ready.flt.fault = false :=
  ⟨rfl, by unfold NoReset; decide, ⟨_, rfl⟩, rfl⟩

/-- A step of a session in which the queue has overflowed. -/
theorem witness_StickyUntilReset :
    let s := onTurn [.sau] { withQueue [1#32, 2#32, 3#32, 4#32] started with
      sau := ⟨true, false, [1#32, 2#32, 3#32, 4#32], true⟩ }
    NoReset s ∧ (∃ t, step s = .next t) ∧ s.sau.rxovf = true ∧ s.irq.en = true ∧ s.ses.sess ≠ .uninit :=
  ⟨by unfold NoReset; decide, ⟨_, rfl⟩, rfl, rfl, by decide⟩

theorem witness_ResetEvent : (onTurn [.reset] started).env.sched = .reset :: [] := by decide

/-- A quiescent state with nothing for the host to do: after reset. With an event left pending: before INIT only. -/
theorem witness_QuiescentStatesIdle :
    Quiescent State.reset ∧ State.reset.env.hostOps = [] ∧ State.reset.env.sched = [] ∧ Quiescent ready ∧
    Quiescent (withHost [.cmd 2#32] ready) := by
  unfold Quiescent; decide

/-- The last word of data memory can be written; the byte after it cannot; no misaligned half word can. -/
theorem witness_LittleEndianMemory :
    (∃ m', memWrite Config.exampleParams [] 0x2003FFFC#32 .w4 0x12345678#32 = some m') ∧
    memWrite Config.exampleParams [] 0x20040000#32 .w1 0#32 = none ∧
    memWrite Config.exampleParams [] 0x20000001#32 .w2 0#32 = none ∧ Memory.wf [] = true :=
  ⟨⟨_, rfl⟩, by decide, by decide, rfl⟩

/-- The last byte of a buffer, a misaligned word, the first byte behind both buffers, and no session at all. -/
theorem witness_HostBufferAccess :
    HostMayAct ready ∧ ready.ses.sess ≠ .uninit ∧ BuffersOk ready ready.cfg.n.toNat ∧
    (ready.ses.buf true).toNat ≤ (0x2000101F#32).toNat ∧
    (0x2000101F#32).toNat + 1 ≤ (ready.ses.buf true).toNat + 4 * ready.cfg.n.toNat ∧
    (0x20001002#32).toNat % Width.w4.bytes ≠ 0 ∧
    (∀ i : Bool, (0x20001020#32).toNat < (ready.ses.buf i).toNat ∨
      (ready.ses.buf i).toNat + 4 * ready.cfg.n.toNat < (0x20001020#32).toNat + 1) ∧
    State.reset.ses.sess = .uninit := by
  unfold HostMayAct BuffersOk RegionOk; decide

/-- An answer R70 allows, one it does not, and FAIL. -/
theorem witness_AllocatorAnswers :
    (withAnswers [none] staged).env.allocs = none :: [] ∧
    (withAnswers [some 0x20001000#32] staged).env.allocs = some 0x20001000#32 :: [] ∧
    AllocAllows staged.par staged.live 16 0x20001000#32 ∧
    (withAnswers [some 0x20001002#32] staged).env.allocs = some 0x20001002#32 :: [] ∧
    ¬AllocAllows staged.par staged.live 16 0x20001002#32 := by
  unfold AllocAllows; decide

theorem witness_LiveRegionsStayDisjoint :
    let s := onTurn [.te] (withQueue [1#32] started)
    BlockInv s ∧ LiveOk s ∧ ∃ t, step s = .next t :=
  ⟨witness_block_inv_queue [1#32] (by decide) [.te], by unfold LiveOk; decide, ⟨_, rfl⟩⟩

theorem witness_BlockInvKept :
    let s := onTurn [.te] (withQueue [1#32] started)
    BlockInv s ∧ ∃ t, step s = .next t :=
  ⟨witness_block_inv_queue [1#32] (by decide) [.te], ⟨_, rfl⟩⟩

theorem witness_block_inv_reset : BlockInv State.reset where
  memory := rfl
  uninit := by decide
  buffers := fun h => absurd rfl h
  queue := by decide
  engine := by intro h; cases h
  armed := by decide
  handler := by decide
  command := rfl
  counter := by decide

/-- The invariant at the last micro-step of each command of an active session, and of RECORD in a ready one. -/
theorem witness_block_inv_started_command (op : CmdOp) (k : Nat) (h : CommandProgress (atStep op k started)) :
    BlockInv (atStep op k started) where
  memory := rfl
  uninit := by intro h; cases h
  buffers := witness_block_inv_started.buffers
  queue := witness_block_inv_started.queue
  engine := witness_block_inv_started.engine
  armed := witness_block_inv_started.armed
  handler := witness_block_inv_started.handler
  command := h
  counter := witness_block_inv_started.counter

theorem witness_block_inv_record : BlockInv (atStep .record 3 ready) where
  memory := rfl
  uninit := by intro h; cases h
  buffers := fun _ => witness_block_inv_started.buffers (by decide)
  queue := by decide
  engine := by intro h; cases h
  armed := by decide
  handler := by decide
  command := ⟨by decide, by decide, by decide⟩
  counter := by decide

/-- A session of one-word buffers, about to take START's S4: 43 R188 numbers it 4, which is past `cfg.n + 2`. -/
def oneWord : State :=
  atStep .start 4 { started with cfg := { started.cfg with n := 1#32 }, te := ⟨true, 0x20001000#32, 1#32, 1#32⟩ }

theorem test_start_numbers_one_word :
    (nextOf (exec .start (atStep .start 3 oneWord))).map (fun t => (t.cmd.cpc, t.cfg.n)) = some (4#32, 1#32) := by
  decide

theorem witness_block_inv_one_word : BlockInv oneWord where
  memory := rfl
  uninit := by intro h; cases h
  buffers := by unfold BuffersOk RegionOk; decide
  queue := by decide
  engine := fun _ => ⟨by decide, by decide, false, rfl⟩
  armed := by decide
  handler := by decide
  command := ⟨by decide, by decide, by decide⟩
  counter := by decide

/-- Without a session and with one; with each command whose `cpc` is bounded, and past the bound. -/
theorem witness_BlockInvGivesRuleFiftyOne :
    BlockInv State.reset ∧ State.reset.cmd.op ≠ .init ∧ State.reset.ses.sess = .uninit ∧
    BlockInv started ∧ started.cmd.op ≠ .init ∧ started.ses.sess ≠ .uninit ∧ started.te.busy = true ∧
    BlockInv (atStep .start 4 started) ∧ BlockInv (atStep .stop 2 started) ∧ BlockInv (atStep .getbuf 3 started) ∧
    BlockInv (atStep .record 3 ready) ∧ BlockInv oneWord ∧ oneWord.cfg.n.toNat + 2 < oneWord.cmd.cpc.toNat :=
  ⟨witness_block_inv_reset, by decide, rfl, witness_block_inv_started, by decide, by decide, rfl,
    witness_block_inv_started_command .start 4 ⟨by decide, by decide, by decide⟩,
    witness_block_inv_started_command .stop 2 ⟨by decide, by decide⟩,
    witness_block_inv_started_command .getbuf 3 ⟨by decide, by decide⟩, witness_block_inv_record,
    witness_block_inv_one_word, by decide⟩

/-- Steps that stop: after a fault, outside the window, misaligned, outside the buffers. -/
theorem witness_StopsAreNamed :
    (∀ s, BlockInv s → ∀ ts ops, BlockInv (onTurn ts (withHost ops s))) ∧
    step (onTurn [.sau] (faulted .teMisuse started)) = .fault .afterFault ∧
    step (onTurn [.app] (withHost [.bus ⟨.read, 0x40000040#32, .w4, 0#32⟩] started)) = .refused .outsideWindow ∧
    step (onTurn [.app] (withHost [.load 0x20001002#32 .w4] started)) = .refused .hostMisaligned ∧
    step (onTurn [.app] (withHost [.store 0x20001020#32 .w1 0#32] started)) = .refused .hostOutsideBuffers :=
  ⟨fun _ h _ _ => ⟨h.memory, h.uninit, h.buffers, h.queue, h.engine, h.armed, h.handler, h.command, h.counter⟩,
    rfl, rfl, rfl, rfl⟩

/-- The invariant of a faulted session. -/
theorem witness_block_inv_faulted : BlockInv (onTurn [.sau] (faulted .teMisuse started)) where
  memory := rfl
  uninit := by decide
  buffers := witness_block_inv_started.buffers
  queue := by decide
  engine := witness_block_inv_started.engine
  armed := by decide
  handler := by decide
  command := rfl
  counter := by decide

theorem witness_ping_pong_started (q : List Word) (ts : List Turn) :
    PingPong (onTurn ts (withQueue q started)) where
  published := by rintro (h | h) <;> cases h
  retargeted := by intro h; cases h
  target := fun _ _ _ _ _ => rfl
  starting := by intro _ h; cases h
  running := fun _ _ _ => .inl rfl

/-- The state of 70 R290: the transfer that the handler has just armed is already complete again. -/
def losing : State :=
  onTurn [.sau] (inHandler .retargeted ⟨false, 0x20001020#32, 0#32, 4#32⟩)

theorem witness_block_inv_losing : BlockInv losing where
  memory := rfl
  uninit := by decide
  buffers := witness_block_inv_started.buffers
  queue := by decide
  engine := by intro h; cases h
  armed := by decide
  handler := by decide
  command := rfl
  counter := by decide

theorem witness_ping_pong_losing : PingPong losing where
  published := fun _ => rfl
  retargeted := by intro _ h; cases h
  target := by intro _ h; cases h
  starting := by intro h; cases h
  running := by intro h; cases h

/-- A step of the engine; and the SAU's step in a state whose acknowledge would lose an event. -/
theorem witness_PingPongKept :
    (let s := onTurn [.te] (withQueue [1#32] started)
     BlockInv s ∧ PingPong s ∧ ¬(LosesEvent s ∧ (takeTurn s).1 = some .irq) ∧ ∃ t, step s = .next t) ∧
    (BlockInv losing ∧ PingPong losing ∧ LosesEvent losing ∧
      ¬(LosesEvent losing ∧ (takeTurn losing).1 = some .irq) ∧ ∃ t, step losing = .next t) :=
  ⟨⟨witness_block_inv_queue [1#32] (by decide) [.te], witness_ping_pong_started [1#32] [.te],
      by unfold LosesEvent; decide, ⟨_, rfl⟩⟩,
    ⟨witness_block_inv_losing, witness_ping_pong_losing, ⟨rfl, rfl, rfl⟩, by unfold LosesEvent; decide, ⟨_, rfl⟩⟩⟩

theorem witness_EngineWritesActiveBuffer :
    let s := onTurn [.te] (withQueue [1#32] started)
    BlockInv s ∧ PingPong s ∧ s.ses.sess = .active ∧ s.cmd.op ≠ .start ∧ s.ch.inHandler = false ∧
    s.irq.pend = false ∧ s.flt.fault = false ∧ (∃ t, teCopy s = .next t) ∧
    (s.ses.buf (!s.ses.active)).toNat ≤ 0x20001010 ∧
    0x20001010 < (s.ses.buf (!s.ses.active)).toNat + 4 * s.cfg.n.toNat :=
  ⟨witness_block_inv_queue [1#32] (by decide) [.te], witness_ping_pong_started [1#32] [.te], rfl, by decide, rfl,
    rfl, rfl, ⟨_, rfl⟩, by decide, by decide⟩

/-- Each of the three writers changes `active`: the handler, START after a session that ended on buffer 1, and INIT
(with a value that only a state no run reaches can have). -/
theorem witness_ActiveHasThreeWriters :
    (let s := onTurn [.irq] (inHandler .entered completed.te)
     NoReset s ∧ ∃ t, step s = .next t ∧ t.ses.active ≠ s.ses.active) ∧
    (let s := onTurn [.app] (atStep .start 1 { ready with ses := { ready.ses with active := true } })
     NoReset s ∧ ∃ t, step s = .next t ∧ t.ses.active ≠ s.ses.active) ∧
    (let s := onTurn [.app] (atStep .init 7 { ready with ses := { ready.ses with active := true } })
     NoReset s ∧ ∃ t, step s = .next t ∧ t.ses.active ≠ s.ses.active) :=
  ⟨⟨by unfold NoReset; decide, _, rfl, by decide⟩, ⟨by unfold NoReset; decide, _, rfl, by decide⟩,
    ⟨by unfold NoReset; decide, _, rfl, by decide⟩⟩

theorem witness_ConfigFixedAfterInit :
    let s := onTurn [.te] (withQueue [1#32] started)
    BlockInv s ∧ s.ses.sess ≠ .uninit ∧ NoReset s ∧ ∃ t, step s = .next t :=
  ⟨witness_block_inv_queue [1#32] (by decide) [.te], by decide, by unfold NoReset; decide, ⟨_, rfl⟩⟩

/-- Two words that differ outside the window. -/
theorem witness_SampleExtraction :
    (0x80000000#32 : Word).extractLsb' 15 16 = (0x00007FFF#32 : Word).extractLsb' 15 16 ∧
    (0x40000000#32 : Word).getLsbD 30 = true := by decide

theorem witness_ChannelsAlternate :
    let s := onTurn [.sau, .sau, .sau] started
    s.flt.fault = false ∧ s.sau.en = true ∧ s.sau.phase = false ∧
    s.env.sched = List.replicate 3 .sau ++ [] := by decide

end Sys2Proof.Tests
end

section
/-! SUPPORT. Faults and reset (spec/10_state.md rules R32 and R50): what a step can still do once a fault is
recorded, and the state that reset leaves. -/

namespace Sys2Proof.Proofs

open Sys2Proof Sys2Proof.Machine Sys2Proof.Laws

/-! ## After a recorded fault -/

/-- After a recorded fault APP's step can only return a value to the host (60 R243: RD STATUS). -/
theorem appStep_of_fault {s t : State} (hf : s.flt.fault = true) (h : AppStep s t) : ∃ e, t = s.setEnv e := by
  rcases h with ⟨hs, op, hop⟩ | ⟨-, hn, -⟩
  · rcases issue_next hs hop with ⟨hm, -⟩ | ⟨v, rfl⟩
    · exact absurd hf (by simp [hm.1])
    · exact ⟨_, rfl⟩
  · exact absurd hf (by simp [hn])

/-- After a recorded fault a step that is no reset changes the environment's record only (60 R243, log 7). -/
theorem step_of_fault {s t : State} (hf : s.flt.fault = true) (hr : NoReset s) (h : step s = .next t) :
    ∃ e, t = s.setEnv e := by
  obtain ⟨e, rfl | happ | ⟨-, hn, -⟩ | ⟨hn, -⟩ | ⟨hn, -⟩ | ⟨hreset, -⟩⟩ := step_cases h
  · exact ⟨e, rfl⟩
  · obtain ⟨e', rfl⟩ := appStep_of_fault (s := s.setEnv e) hf happ
    exact ⟨e', setEnv_setEnv s e e'⟩
  · exact absurd hf (by simpa using hn)
  · exact absurd hf (by simp [hn])
  · exact absurd hf (by simp [hn])
  · exact absurd hreset hr

/-- What taking a fault does to the record (60 R243). -/
@[simp] theorem takeFault_flt (c : Cause) (s : State) : (takeFault c s).flt = recordFault c s.flt := rfl

/-- Settles O42: the record is `recordFault`'s, and after a fault a step reaches no element of the block. -/
theorem faultRecordKept : Obligations.FaultRecordKept := by
  intro s
  refine ⟨fun c hf => ?_, fun c hf => ?_, fun t hf hr h => ?_⟩
  · simp [hf]
  · simp [hf]
  · obtain ⟨e, rfl⟩ := step_of_fault hf hr h
    exact setEnv_flt s e

/-! ## The reset state -/

/-- The one action that is no step. -/
@[simp] theorem isIdle_iff {a : Action} : a.isIdle = true ↔ a = .idle := by
  cases a <;> simp [Action.isIdle]

/-- Nobody has a step exactly when each of the four agents is idle (00 R7). -/
theorem enabledTurns_eq_nil_iff {s : State} :
    enabledTurns s = [] ↔ actionOf .app s = .idle ∧ actionOf .irq s = .idle ∧ actionOf .sau s = .idle ∧
      actionOf .te s = .idle := by
  simp [enabledTurns]

/-- After reset no agent has a step, the host having no operation yet (10 R50). -/
theorem enabledTurns_resetOf (p : Params) : enabledTurns (State.resetOf p) = [] :=
  enabledTurns_eq_nil_iff.2 ⟨rfl, rfl, rfl, rfl⟩

/-- After reset a byte of memory reads as its free power-up value (10 R33, log 6). -/
theorem byte_resetOf (p : Params) (x : Nat) : (State.resetOf p).mem.byte x = Config.powerUpByte x := rfl

/-- `STATUS` reads 0 after reset: every field it is assembled from is 0 (10 R41). -/
theorem statusWord_resetOf (p : Params) : statusWord (State.resetOf p) = 0#32 := by
  simp [statusWord, State.resetOf, Cause.code, Err.code, Sess.code]

/-- Settles O44: the elements are those `State.resetOf` gives, and what is read off them follows. -/
theorem resetValues : Obligations.ResetValues := fun p =>
  ⟨rfl, rfl, rfl, rfl, rfl, rfl, rfl, rfl, rfl, rfl, rfl, rfl, byte_resetOf p, statusWord_resetOf p,
    enabledTurns_resetOf p, rfl⟩

end Sys2Proof.Proofs
end

section
/-! SUPPORT. Data memory (spec/20_memory.md rules R61 to R63): the bytes of a load, and what a load reads of a value
that a store has put there. -/

namespace Sys2Proof.Proofs

open Sys2Proof Sys2Proof.Machine Sys2Proof.Laws

/-! ## The bytes of a load -/

/-- Byte `i` of a load is the byte at the `i`-th address (20 R61). -/
theorem extractLsb'_load (m : Memory) {n i : Nat} (a : Nat) (hn : n ≤ 4) (hi : i < n) :
    (m.load a n).extractLsb' (8 * i) 8 = m.byte (a + i) := by
  ext k hk
  have hdiv : (8 * i + k) / 8 = i := by omega
  have hmod : (8 * i + k) % 8 = k := by omega
  have hin : 8 * i + k < 8 * n := by omega
  simp [load_getLsbD _ _ _ _ hn, hdiv, hmod, hin, hk, BitVec.getLsbD_eq_getElem]

/-- A load of `n` bytes is extended with zeros (20 R62). -/
theorem load_toNat_lt (m : Memory) {n : Nat} (a : Nat) (hn : n ≤ 4) : (m.load a n).toNat < 2 ^ (8 * n) := by
  refine Nat.lt_pow_two_of_testBit _ fun k hk => ?_
  have hout : ¬k < 8 * n := by omega
  simp [BitVec.testBit_toNat, load_getLsbD _ _ _ _ hn, hout]

/-! ## A load after a store -/

/-- Byte `i` of a store is byte `i` of the value (20 R63). -/
theorem read?_store_byte (m : Memory) (a : Nat) (v : Word) {n i : Nat} (hi : i < n) :
    (m.store a v n).read? (a + i) = some (v.extractLsb' (8 * i) 8) :=
  read?_store_inside m a v n i hi

/-- The byte a load reads where a store has put byte `i` of the value. -/
theorem byte_store (m : Memory) (a : Nat) (v : Word) {n i : Nat} (hi : i < n) :
    (m.store a v n).byte (a + i) = v.extractLsb' (8 * i) 8 := by
  rw [Memory.byte, read?_store_byte m a v hi, Option.getD_some]

/-- A load of `k` bytes, `i` bytes into a store, gives those bytes of the stored value, extended with zeros. -/
theorem load_store (m : Memory) (a : Nat) (v : Word) {n i k : Nat} (hn : n ≤ 4) (hk : i + k ≤ n) :
    (m.store a v n).load (a + i) k = (v.extractLsb' (8 * i) (8 * k)).setWidth 32 := by
  ext j hj
  rw [← BitVec.getLsbD_eq_getElem, load_getLsbD _ _ _ _ (by omega)]
  by_cases hin : j < 8 * k
  · have hbit : 8 * (i + j / 8) + j % 8 = 8 * i + j := by omega
    rw [Nat.add_assoc, byte_store m a v (by omega)]
    simp [hin, hbit, Nat.mod_lt]
  · simp [hin]

/-! ## `MemRead` and `MemWrite` -/

/-- No access is wider than a word. -/
theorem width_bytes_le_four (w : Width) : w.bytes ≤ 4 := by
  cases w <;> decide

/-- Where an access is legal (20 R62). -/
theorem accessOk_iff {p : Params} {a : Word} {n : Nat} :
    accessOk p a n = true ↔
      a.toNat % n = 0 ∧ p.dataBase.toNat ≤ a.toNat ∧ a.toNat + n ≤ p.dataBase.toNat + p.dataSize := by
  simp [accessOk, and_assoc]

/-- What a read of memory can do: it needs the access to be legal and loads the bytes (20 R62). -/
theorem memRead_eq_some {p : Params} {m : Memory} {a x : Word} {w : Width} :
    memRead p m a w = some x ↔ accessOk p a w.bytes = true ∧ x = m.load a.toNat w.bytes := by
  unfold memRead
  split
  · next h => simp [h, eq_comm]
  · next h => simp [h]

/-- A write is defined exactly on the legal accesses (20 R63). -/
theorem exists_memWrite_iff {p : Params} {m : Memory} {a : Word} {w : Width} {v : Word} :
    (∃ m', memWrite p m a w v = some m') ↔ accessOk p a w.bytes = true := by
  simp [memWrite_eq_some]

/-- A read is defined exactly on the legal accesses (20 R62). -/
theorem exists_memRead_iff {p : Params} {m : Memory} {a : Word} {w : Width} :
    (∃ x, memRead p m a w = some x) ↔ accessOk p a w.bytes = true := by
  simp [memRead_eq_some]

/-- The upper half of an aligned word lies two bytes on: the address does not wrap. -/
theorem toNat_add_two {a : Word} (h : a.toNat % 4 = 0) : (a + 2#32).toNat = a.toNat + 2 := by
  bv_omega

/-- The upper half of a legal word is a legal access. -/
theorem accessOk_upper_half {p : Params} {a : Word} (h : accessOk p a 4 = true) :
    accessOk p (a + 2#32) 2 = true := by
  obtain ⟨hal, hlo, hhi⟩ := accessOk_iff.1 h
  have hadd := toNat_add_two hal
  refine accessOk_iff.2 ⟨?_, ?_, ?_⟩ <;> omega

/-- A read after a write of the same width at the same address gives the written bytes back. -/
theorem memRead_memWrite {p : Params} {m m' : Memory} {a : Word} {w : Width} {v : Word}
    (h : memWrite p m a w v = some m') : memRead p m' a w = some ((v.setWidth (8 * w.bytes)).setWidth 32) := by
  obtain ⟨hok, rfl⟩ := memWrite_eq_some.1 h
  have hw := width_bytes_le_four w
  have hlow : v.setWidth (8 * w.bytes) = v.extractLsb' 0 (8 * w.bytes) := BitVec.setWidth_eq_extractLsb' (by omega)
  rw [hlow]
  exact memRead_eq_some.2 ⟨hok, (load_store m a.toNat v (i := 0) hw (Nat.zero_add _).le).symm⟩

/-- After a write of a word its upper half is read two bytes on (20 R61). -/
theorem memRead_upper_half_memWrite {p : Params} {m m' : Memory} {a : Word} {v : Word}
    (h : memWrite p m a .w4 v = some m') :
    memRead p m' (a + 2#32) .w2 = some ((v.extractLsb' 16 16).setWidth 32) := by
  obtain ⟨hok, rfl⟩ := memWrite_eq_some.1 h
  have hadd := toNat_add_two (accessOk_iff.1 hok).1
  refine memRead_eq_some.2 ⟨accessOk_upper_half hok, ?_⟩
  rw [hadd]
  exact (load_store m a.toNat v (n := 4) (i := 2) (k := 2) le_rfl le_rfl).symm

/-- Settles O47: both accesses are defined where `accessOk` holds, and the bytes are those of `load` and `store`. -/
theorem littleEndianMemory : Obligations.LittleEndianMemory := by
  intro p m a w v
  refine ⟨exists_memWrite_iff.trans accessOk_iff, exists_memRead_iff.trans exists_memWrite_iff.symm,
    fun x hx => ?_, fun m' hm => ?_⟩
  · obtain ⟨-, rfl⟩ := memRead_eq_some.1 hx
    have hw := width_bytes_le_four w
    exact ⟨fun i hi => extractLsb'_load m _ hw hi, load_toNat_lt m _ hw⟩
  · refine ⟨?_, ?_, wf_memWrite hm, memRead_memWrite hm, ?_⟩
    · obtain ⟨-, rfl⟩ := memWrite_eq_some.1 hm
      exact fun i hi => read?_store_byte m _ v hi
    · obtain ⟨-, rfl⟩ := memWrite_eq_some.1 hm
      exact fun x hx => read?_store_outside m _ v _ x hx
    · rintro rfl
      exact memRead_upper_half_memWrite hm

end Sys2Proof.Proofs
end

section
/-! SUPPORT. The write of a command word (spec/30_encoding.md rules R94 and R99, spec/44_host_interface.md rule R225):
the words that decode to no command, the two things a write of `CMD` does, and a command line as such a write. -/

namespace Sys2Proof.Proofs

open Sys2Proof Sys2Proof.Machine Sys2Proof.Laws

/-! ## Illegal command words -/

/-- The illegal command words, in the words of 30 R94. -/
theorem cmdWordWf_eq_false_iff {v : Word} :
    cmdWordWf v = false ↔
      v.extractLsb' 0 4 = 0#4 ∨ 6 ≤ (v.extractLsb' 0 4).toNat ∨ v.extractLsb' 5 27 ≠ 0#27 ∨
        (v.getLsbD 4 = true ∧ v.extractLsb' 0 4 ≠ 4#4) := by
  unfold cmdWordWf
  generalize v.extractLsb' 0 4 = op
  generalize v.extractLsb' 5 27 = hi
  have zero : op = 0#4 ↔ op.toNat = 0 := BitVec.toNat_inj.symm
  have four : op = 4#4 ↔ op.toNat = 4 := BitVec.toNat_inj.symm
  rw [Ne, Ne, zero, four]
  by_cases hz : hi = 0#27 <;> cases v.getLsbD 4 <;> simp [hz] <;> omega

/-- A word that is no legal command word decodes to no instruction (30 R94). -/
theorem decodeCmd_of_not_wf {v : Word} (h : cmdWordWf v = false) : decodeCmd v = .error .illegalCommand := by
  unfold decodeCmd
  split
  · -- A case that answers an instruction has an `op` and a `b` that are legal.
    split <;> simp_all [cmdWordWf]
  · rfl

/-! ## The write of `CMD` -/

/-- Before any fault `takeFault` leaves the state of `faulted` (60 R243). -/
theorem takeFault_of_no_fault {s : State} (h : s.flt.fault = false) (c : Cause) : takeFault c s = faulted c s := by
  rw [takeFault, recordFault_of_none h]
  rfl

/-- When the host may act, a write of `CMD` takes effect (44 R220). -/
theorem exec_wrCmd_open {s : State} (hs : HostMayAct s) (v : Word) : exec (.wrCmd v) s = .next (writeCommand v s) :=
  hostGate_open hs fun s => .next (writeCommand v s)

/-- When the host may act, the write of an illegal command word records ILLEGAL_CMD and does nothing else. -/
theorem exec_wrCmd_of_not_wf {s : State} {v : Word} (hs : HostMayAct s) (h : cmdWordWf v = false) :
    exec (.wrCmd v) s = .next (faulted .illegalCmd s) := by
  have hw : writeCommand v s = takeFault .illegalCmd s := by simp [writeCommand, decodeCmd_of_not_wf h]
  rw [exec_wrCmd_open hs, hw, takeFault_of_no_fault hs.1]

/-- When the host may act, the write of a command's word starts that command (44 R225). -/
theorem exec_wrCmd_of_decode {s : State} {v : Word} {i : Instr} {op : CmdOp} {b : Bool} (hs : HostMayAct s)
    (hd : decodeCmd v = .ok i) (hc : commandOf i = some (op, b)) :
    exec (.wrCmd v) s = .next (startCommand op b s) := by
  rw [exec_wrCmd_open hs]
  simp [writeCommand, hd, hc]

/-- When the host may act, a command instruction starts its command (43 R180). -/
theorem exec_of_command {s : State} {i : Instr} {op : CmdOp} {b : Bool} (hs : HostMayAct s)
    (hc : commandOf i = some (op, b)) : exec i s = .next (startCommand op b s) := by
  cases i <;> cases hc
  all_goals exact commandStep_idle hs _ _ _

/-- A command line of a host program is the write of its word (30 R99). -/
theorem exec_command_eq_exec_wrCmd {s : State} {v : Word} {i : Instr} {op : CmdOp} {b : Bool} (hs : HostMayAct s)
    (hd : decodeCmd v = .ok i) (hc : commandOf i = some (op, b)) : exec i s = exec (.wrCmd v) s :=
  (exec_of_command hs hc).trans (exec_wrCmd_of_decode hs hd hc).symm

/-- Settles O6: an illegal word decodes to no instruction, and each legal word to the command it starts. -/
theorem commandWordWrite : Obligations.CommandWordWrite := by
  intro s hs
  refine ⟨fun v hv => exec_wrCmd_of_not_wf hs (cmdWordWf_eq_false_iff.2 hv),
    exec_wrCmd_of_decode hs (i := .init) rfl rfl, exec_wrCmd_of_decode hs (i := .start) rfl rfl,
    exec_wrCmd_of_decode hs (i := .stop) rfl rfl, exec_wrCmd_of_decode hs (i := .getbuf false) rfl rfl,
    exec_wrCmd_of_decode hs (i := .getbuf true) rfl rfl, exec_wrCmd_of_decode hs (i := .record) rfl rfl,
    ?_, ?_, ?_, ?_, ?_, ?_⟩
  all_goals exact exec_command_eq_exec_wrCmd hs rfl rfl

end Sys2Proof.Proofs
end

section
/-! SUPPORT. The unit primitives of the SAU and its data-ready signal (spec/40_sau.md rules R120 to R125). -/

namespace Sys2Proof.Proofs

open Sys2Proof Sys2Proof.Machine Sys2Proof.Laws

/-- Data-ready is high exactly on a nonempty queue (40 R125). -/
theorem dreq_eq_true_iff {s : State} : dreq s = true ↔ 0 < s.sau.rxq.length := by
  simp [dreq, List.length_pos_iff]

/-- Settles O31: five primitives set one component of the state, and a pop and data-ready are facts about the queue. -/
theorem sauPrimitives : Obligations.SauPrimitives := by
  intro s
  exact ⟨fun _ _ _ _ => rfl, rfl, rfl, rfl, rfl, fun _ ws hq => sauPop_eq_some.2 ⟨ws, hq, rfl⟩, dreq_eq_true_iff⟩

end Sys2Proof.Proofs
end

section
/-! SUPPORT. The Transfer Engine (spec/41_transfer_engine.md): what its primitives do on an idle and on a busy engine
(rules R141 to R144 and R147), and the copy of one word, from the queue through memory to the completion event
(rule R145). -/

namespace Sys2Proof.Proofs

open Sys2Proof Sys2Proof.Machine Sys2Proof.Laws

/-! ## Arming and re-triggering -/

/-- An idle engine is armed with an address and a count, which is also kept for re-triggering (41 R142). -/
theorem teArm_of_idle {s : State} (hb : s.te.busy = false) (a n : Word) :
    teArm a n s = some (s.setTe { busy := true, waddr := a, remain := n, reload := n }) := by
  simp [teArm, hb]

/-- A busy engine cannot be armed (41 R142). -/
theorem teArm_of_busy {s : State} (hb : s.te.busy = true) (a n : Word) : teArm a n s = none := by
  simp [teArm, hb]

/-- An idle engine is re-triggered with the count it was last armed with (41 R143). -/
theorem teRetrigger_of_idle {s : State} (hb : s.te.busy = false) (a : Word) :
    teRetrigger a s = some (s.setTe { s.te with busy := true, waddr := a, remain := s.te.reload }) := by
  simp [teRetrigger, hb]

/-- A busy engine cannot be re-triggered (41 R143). -/
theorem teRetrigger_of_busy {s : State} (hb : s.te.busy = true) (a : Word) : teRetrigger a s = none := by
  simp [teRetrigger, hb]

/-- At micro-step S2 START's next application step is S2 (43 R188). -/
theorem exec_start_at_S2 {s : State} (h : AtMicroStep .start 2 s) : exec .start s = startS2 s :=
  commandStep_at h (by decide) nofun startMicro

/-- START's S2 on a busy engine faults with TE_MISUSE and does nothing else. -/
theorem exec_start_of_busy {s : State} (hb : s.te.busy = true) (h : AtMicroStep .start 2 s) :
    exec .start s = .next (faulted .teMisuse s) := by
  rw [exec_start_at_S2 h, startS2, teArm_of_busy hb, ← takeFault_of_no_fault h.1]

/-- `CH.RETARGET` on a busy engine faults with TE_MISUSE and does nothing else (42 R163). -/
theorem chRetarget_of_busy {s : State} (hb : s.te.busy = true) (hf : s.flt.fault = false) :
    chRetarget s = .next (faulted .teMisuse s) := by
  simp [chRetarget, hf, teRetrigger_of_busy hb, takeFault_of_no_fault hf]

/-- Settles O32: claim, abort and acknowledge set one component; arming and re-triggering depend on the engine being
idle, and the two steps that do them turn their refusal into TE_MISUSE. -/
theorem transferEnginePrimitives : Obligations.TransferEnginePrimitives := by
  intro s
  exact ⟨rfl, fun a n hb => teArm_of_idle hb a n, fun a hb => teRetrigger_of_idle hb a,
    fun hb => ⟨teArm_of_busy hb, teRetrigger_of_busy hb⟩, exec_start_of_busy, chRetarget_of_busy, rfl, rfl⟩

/-! ## The copy of one word -/

/-- `TE.COPY` is enabled on a busy engine with a word in the queue (41 R145). -/
theorem teEnabled_eq_true_iff {s : State} : teEnabled s = true ↔ s.te.busy = true ∧ 0 < s.sau.rxq.length := by
  rw [teEnabled, Bool.and_eq_true, dreq_eq_true_iff]

/-- The engine's step is `TE.COPY` exactly when that is enabled (00 R7). -/
theorem actionOf_te_eq_teCopy_iff {s : State} :
    actionOf .te s = .teCopy ↔ s.te.busy = true ∧ 0 < s.sau.rxq.length := by
  rw [actionOf_te, ← teEnabled_eq_true_iff]
  split
  · next h => simp [h]
  · next h => simp [h]

/-- The last word is the one copied at count 1 (41 R145). -/
theorem teLast_eq_decide (t : Te) : teLast t = decide (t.remain = 1#32) := by
  have hzero : t.remain - 1#32 = 0#32 ↔ t.remain = 1#32 := sub_eq_zero
  simp [teLast, beq_eq_decide, hzero]

/-- How a busy engine's registers and the completion event advance with a word (41 R145). -/
theorem teAdvance_of_busy {s : State} (hb : s.te.busy = true) :
    teAdvance s = { s with
      te := { busy := if s.te.remain = 1#32 then false else true
              waddr := s.te.waddr + 4#32
              remain := s.te.remain - 1#32
              reload := s.te.reload }
      irq := { s.irq with pend := if s.te.remain = 1#32 then true else s.irq.pend } } := by
  rw [teAdvance, teAfterWord, teLast_eq_decide, hb]
  by_cases hlast : s.te.remain = 1#32 <;> simp [hlast, State.setTe, State.setIrq]

/-- `TE.COPY` on a busy engine: pop, write and advance, in one step (41 R145). -/
theorem teCopy_of_memWrite {s : State} {w : Word} {ws : List Word} {m : Memory} (hf : s.flt.fault = false)
    (hb : s.te.busy = true) (hq : s.sau.rxq = w :: ws) (hm : memWrite s.par s.mem s.te.waddr .w4 w = some m) :
    teCopy s = .next (teAdvance ((s.setSau { s.sau with rxq := ws }).setMem m)) := by
  simp [teCopy, hf, hb, sauPop_eq_some.2 ⟨ws, hq, rfl⟩, hm]

/-- After a write of a word the word stands at its address (20 R63). -/
theorem holdsWord_of_memWrite {p : Params} {m m' : Memory} {a v : Word} (h : memWrite p m a .w4 v = some m') :
    HoldsWord m' a.toNat v := by
  obtain ⟨-, rfl⟩ := memWrite_eq_some.1 h
  exact fun i hi => read?_store_byte m a.toNat v hi

/-- A write of a word changes no byte outside it (20 R63). -/
theorem sameOutside_of_memWrite {p : Params} {m m' : Memory} {a v : Word} (h : memWrite p m a .w4 v = some m') :
    SameOutside m m' a.toNat 4 := by
  obtain ⟨-, rfl⟩ := memWrite_eq_some.1 h
  exact fun x hx => read?_store_outside m a.toNat v 4 x hx

/-- Settles O33: at a legal address the write of the popped word succeeds, and the registers advance after it. -/
theorem transferEngineCopies : Obligations.TransferEngineCopies := by
  intro s w ws
  refine ⟨actionOf_te_eq_teCopy_iff, fun hf hb hq hal hlo hhi => ?_⟩
  have hok : accessOk s.par s.te.waddr 4 = true := accessOk_iff.2 ⟨hal, hlo, hhi⟩
  obtain ⟨m, hm⟩ : ∃ m, memWrite s.par s.mem s.te.waddr .w4 w = some m := exists_memWrite_iff.2 hok
  refine ⟨m, ?_, holdsWord_of_memWrite hm, sameOutside_of_memWrite hm⟩
  rw [teCopy_of_memWrite hf hb hq hm, teAdvance_of_busy]
  · rfl
  · exact hb

end Sys2Proof.Proofs
end

section
/-! SUPPORT. The Completion Handler (spec/42_completion_handler.md rules R160 to R164): which of its four steps is
enabled, and what each does before any fault. -/

namespace Sys2Proof.Proofs

open Sys2Proof Sys2Proof.Machine Sys2Proof.Laws

/-! ## When each step is enabled -/

/-- The interrupt is pending and enabled (60 R251). -/
theorem irqLine_eq_true_iff {s : State} : irqLine s = true ↔ s.irq.pend = true ∧ s.irq.en = true := by
  rw [irqLine, Bool.and_eq_true]

/-- The step that a position inside the handler names (42 R160). -/
def handlerAction : Hpc → Action
  | .idle => .idle
  | .entered => .chPublish
  | .published => .chRetarget
  | .retargeted => .chAck

/-- Outside the handler the interrupt can only enter it (42 R161). -/
theorem actionOf_irq_outside {s : State} (hin : s.ch.inHandler = false) :
    actionOf .irq s = if irqLine s then .chEnter else .idle := by
  simp [actionOf, irqAction, hin]

/-- Inside the handler its position alone names the step (42 R160). -/
theorem actionOf_irq_inside {s : State} (hin : s.ch.inHandler = true) :
    actionOf .irq s = handlerAction s.ch.hpc := by
  cases hpc : s.ch.hpc <;> simp [actionOf, irqAction, handlerAction, hin, hpc]

/-- No position inside the handler enters it again. -/
theorem handlerAction_ne_chEnter (p : Hpc) : handlerAction p ≠ .chEnter := by
  cases p <;> simp [handlerAction]

theorem handlerAction_eq_chPublish_iff {p : Hpc} : handlerAction p = .chPublish ↔ p = .entered := by
  cases p <;> simp [handlerAction]

theorem handlerAction_eq_chRetarget_iff {p : Hpc} : handlerAction p = .chRetarget ↔ p = .published := by
  cases p <;> simp [handlerAction]

theorem handlerAction_eq_chAck_iff {p : Hpc} : handlerAction p = .chAck ↔ p = .retargeted := by
  cases p <;> simp [handlerAction]

/-- `CH.ENTER` needs a pending, enabled interrupt outside the handler (42 R161). -/
theorem actionOf_irq_eq_chEnter_iff {s : State} :
    actionOf .irq s = .chEnter ↔ s.irq.pend = true ∧ s.irq.en = true ∧ s.ch.inHandler = false := by
  cases hin : s.ch.inHandler with
  | false => simp [actionOf_irq_outside hin, irqLine_eq_true_iff]
  | true => simp [actionOf_irq_inside hin, handlerAction_ne_chEnter]

/-- Every other step of the handler is taken inside it, at the position that names the step. -/
theorem actionOf_irq_eq_iff_inside {s : State} {a : Action} (henter : a ≠ .chEnter) (hidle : a ≠ .idle) :
    actionOf .irq s = a ↔ s.ch.inHandler = true ∧ handlerAction s.ch.hpc = a := by
  cases hin : s.ch.inHandler with
  | false =>
    rw [actionOf_irq_outside hin]
    cases irqLine s
    · simp [hidle.symm]
    · simp [henter.symm]
  | true => simp [actionOf_irq_inside hin]

/-! ## What each step does -/

/-- `CH.ENTER` before any fault (42 R161). -/
theorem chEnter_of_no_fault {s : State} (hf : s.flt.fault = false) : chEnter s = .next (enterHandler s) := by
  simp [chEnter, hf]

/-- `CH.PUBLISH` before any fault: the flip and the saturating count of swaps (42 R162). -/
theorem chPublish_of_no_fault {s : State} (hf : s.flt.fault = false) :
    chPublish s = .next { s with
      ses := { s.ses with active := s.ch.next }
      rep := { s.rep with swapcnt := satSucc s.rep.swapcnt }
      ch := { s.ch with hpc := .published } } := by
  simp [chPublish, hf, State.setSes, State.setRep, State.setCh]

/-- The swap count saturates at its largest value (10 R30). -/
theorem satSucc_eq (w : Word) :
    satSucc w = if w = 0xFFFFFFFF#32 then 0xFFFFFFFF#32 else w + 1#32 := by
  rw [satSucc]
  split
  · assumption
  · rfl

/-- `CH.RETARGET` on an idle engine starts a transfer of the kept count at the snapshot's buffer (42 R163). -/
theorem chRetarget_of_idle {s : State} (hb : s.te.busy = false) (hf : s.flt.fault = false) :
    chRetarget s = .next { s with
      te := { s.te with busy := true, waddr := s.ses.buf s.ch.next, remain := s.te.reload }
      ch := { s.ch with hpc := .retargeted } } := by
  simp [chRetarget, hf, teRetrigger_of_idle hb, State.setTe, State.setCh]

/-- `CH.ACK` before any fault: the event is cleared, then the handler left (42 R164). -/
theorem chAck_of_no_fault {s : State} (hf : s.flt.fault = false) :
    chAck s = .next (leaveHandler (teAck s)) := by
  simp [chAck, hf]

/-- Settles O36: the handler's position names the one enabled step, and each step sets the components of its rule. -/
theorem handlerSteps : Obligations.HandlerSteps := by
  intro s hf
  refine ⟨actionOf_irq_eq_chEnter_iff, ?publish, ?retarget, ?ack, chEnter_of_no_fault hf, ?flip,
    fun hb => chRetarget_of_idle hb hf, fun hb => chRetarget_of_busy hb hf, chAck_of_no_fault hf⟩
  case publish => rw [actionOf_irq_eq_iff_inside (a := .chPublish) nofun nofun, handlerAction_eq_chPublish_iff]
  case retarget => rw [actionOf_irq_eq_iff_inside (a := .chRetarget) nofun nofun, handlerAction_eq_chRetarget_iff]
  case ack => rw [actionOf_irq_eq_iff_inside (a := .chAck) nofun nofun, handlerAction_eq_chAck_iff]
  case flip => rw [chPublish_of_no_fault hf, satSucc_eq]

end Sys2Proof.Proofs
end

section
/-! SUPPORT. The register window (spec/44_host_access_and_sample_format.md rules R221 to R223): the transactions that
decode to an instruction, what becomes of every other one, and the writes of the configuration registers. -/

namespace Sys2Proof.Proofs

open Sys2Proof Sys2Proof.Machine Sys2Proof.Laws

/-! ## Which transactions decode -/

/-- The readable registers are the ones that a read decodes for (30 R96, column R). -/
theorem exists_decodeRead_iff {idx : Nat} : (∃ i, decodeRead idx = .ok i) ↔ readableIndex idx = true := by
  unfold decodeRead
  split
  -- The last case is every index that has no register.
  case h_15 => simp_all [readableIndex]; omega
  all_goals simp [readableIndex]

/-- The writable registers are the ones that a write decodes for, whatever the value (30 R96, column W). -/
theorem exists_decodeWrite_iff {idx : Nat} {v : Word} :
    (∃ i, decodeWrite idx v = .ok i) ↔ writableIndex idx = true := by
  unfold decodeWrite
  split
  -- The last case is every index that has no register.
  case h_15 => simp_all [writableIndex]; omega
  all_goals simp [writableIndex]

/-- The legal transactions are the ones that decode (30 R95, R96). -/
theorem exists_decode_bus_iff {base : Word} {t : BusTuple} :
    (∃ i, decode base (.bus t) = .ok i) ↔ t.wf base = true := by
  simp only [decode, decodeBus, BusTuple.wf]
  generalize (t.addr - base).toNat = offset
  by_cases hout : 64 ≤ offset
  · simp [hout]
  by_cases hwidth : t.width = .w4
  case neg => simp [hout, hwidth]
  by_cases halign : offset % 4 = 0
  case neg => simp [hout, hwidth, halign]
  have hin : offset < 64 := by omega
  cases t.kind with
  | read => simp [hout, hin, hwidth, halign, exists_decodeRead_iff]
  | write => simp [hout, hin, hwidth, halign, exists_decodeWrite_iff]

/-! ## What becomes of a transaction that does not decode -/

/-- The rejections with cause BAD_ACCESS: those of a transaction on the window (44 R222). -/
def IsBadAccess (r : Reject) : Prop := r ≠ .illegalCommand ∧ r ≠ .outsideWindow

/-- A read that does not decode is a bad access. -/
theorem isBadAccess_of_decodeRead {idx : Nat} {r : Reject} (h : decodeRead idx = .error r) : IsBadAccess r := by
  unfold decodeRead at h
  split at h <;> cases h
  all_goals exact ⟨nofun, nofun⟩

/-- A write that does not decode is a bad access. -/
theorem isBadAccess_of_decodeWrite {idx : Nat} {v : Word} {r : Reject} (h : decodeWrite idx v = .error r) :
    IsBadAccess r := by
  unfold decodeWrite at h
  split at h <;> cases h
  all_goals exact ⟨nofun, nofun⟩

/-- Inside the window every transaction that does not decode is a bad access. -/
theorem isBadAccess_of_decode_bus {base : Word} {t : BusTuple} {r : Reject} (hin : (t.addr - base).toNat < 64)
    (h : decode base (.bus t) = .error r) : IsBadAccess r := by
  rw [decode, decodeBus, if_neg (by omega)] at h
  split at h
  · cases h; exact ⟨nofun, nofun⟩
  split at h
  · cases h; exact ⟨nofun, nofun⟩
  split at h
  · exact isBadAccess_of_decodeRead h
  · exact isBadAccess_of_decodeWrite h

/-- When the host may act, a bad access records BAD_ACCESS and does nothing else. -/
theorem reject_of_isBadAccess {r : Reject} {s : State} (hs : HostMayAct s) (hr : IsBadAccess r) :
    reject r s = .next (faulted .badAccess s) := by
  have hgate : hostGate s (fun s => .next (takeFault .badAccess s)) = .next (faulted .badAccess s) := by
    rw [hostGate_open hs, takeFault_of_no_fault hs.1]
  obtain ⟨hcmd, hout⟩ := hr
  cases r with
  | illegalCommand => exact absurd rfl hcmd
  | outsideWindow => exact absurd rfl hout
  | badWidth | misaligned | readOfWriteOnly | writeOfReadOnly | reservedOffset => exact hgate

/-- When the host may act, an illegal transaction on the window records BAD_ACCESS and does nothing else. -/
theorem runEncoding_bus_of_not_wf {s : State} {t : BusTuple} (hs : HostMayAct s)
    (hin : (t.addr - s.par.sauBase).toNat < 64) (h : t.wf s.par.sauBase = false) :
    runEncoding (.bus t) s = .next (faulted .badAccess s) := by
  cases hd : decode s.par.sauBase (.bus t) with
  | ok i => simp [exists_decode_bus_iff.1 ⟨i, hd⟩] at h
  | error r => rw [runEncoding_error hd, reject_of_isBadAccess hs (isBadAccess_of_decode_bus hin hd)]

/-- The list of 44 R222, for a transaction at an offset of the window. -/
def OnBadAccessList (t : BusTuple) (offset : Nat) : Prop :=
  t.width ≠ .w4 ∨ offset % 4 ≠ 0 ∨
  (t.kind = .write ∧ (offset = 0x18 ∨ offset = 0x1C ∨ offset = 0x20 ∨ offset = 0x24 ∨ offset = 0x28 ∨
    offset = 0x2C ∨ offset = 0x30 ∨ offset = 0x34)) ∨
  (t.kind = .read ∧ offset = 0x14) ∨ offset = 0x38 ∨ offset = 0x3C

/-- The list names the illegal transactions on the window. -/
theorem wf_eq_false_iff_onBadAccessList {base : Word} {t : BusTuple} (hin : (t.addr - base).toNat < 64) :
    t.wf base = false ↔ OnBadAccessList t (t.addr - base).toNat := by
  unfold BusTuple.wf OnBadAccessList
  generalize (t.addr - base).toNat = offset at hin
  by_cases hwidth : t.width = .w4
  case neg => simp [hwidth]
  by_cases halign : offset % 4 = 0
  case neg => simp [halign]
  cases t.kind with
  | read => simp [hin, hwidth, halign, readableIndex]; omega
  | write => simp [hin, hwidth, halign, writableIndex]; omega

/-- Settles O5: the rule's list names the illegal transactions, and every legal one decodes. -/
theorem badAccessFaults : Obligations.BadAccessFaults := by
  intro s t hs hin
  have hlist := wf_eq_false_iff_onBadAccessList hin
  refine ⟨fun hbad => runEncoding_bus_of_not_wf hs hin (hlist.2 hbad), fun hgood => ?_⟩
  have hwf : t.wf s.par.sauBase = true := by simpa using mt hlist.1 hgood
  obtain ⟨i, hi⟩ := exists_decode_bus_iff.2 hwf
  exact ⟨i, hi, runEncoding_ok hi⟩

/-! ## The configuration registers -/

/-- When the host may act, a write of the staging registers stores them and does nothing else (44 R223). -/
theorem writeStage_open {s : State} (hs : HostMayAct s) (x : Stage) : writeStage x s = .next (s.setStage x) :=
  hostGate_open hs fun s => .next (s.setStage x)

/-- Settles O13: each of the five writes stores the staging registers with its own one replaced. -/
theorem writeConfigRegister : Obligations.WriteConfigRegister := fun _ _ hs =>
  ⟨writeStage_open hs _, writeStage_open hs _, writeStage_open hs _, writeStage_open hs _, writeStage_open hs _⟩

end Sys2Proof.Proofs
end

section
/-! SUPPORT. The sample of a word (spec/44_host_access_and_sample_format.md rule R230), for every place of the sample
window. -/

namespace Sys2Proof.Proofs

open Sys2Proof Sys2Proof.Machine

/-- A sample is a 16-bit signed number. -/
theorem sample_mem_Icc (lsb : Nat) (w : Word) : sample lsb w ∈ Set.Icc (-32768) 32767 :=
  ⟨BitVec.le_toInt _, BitVec.toInt_le⟩

/-- The top bit of the sample window is the sign bit of the number in it. -/
theorem sample_eq_ite (lsb : Nat) (w : Word) :
    sample lsb w =
      if w.getLsbD (lsb + 15) = true then ((w.toNat / 2 ^ lsb % 2 ^ 16 : Nat) : Int) - 65536
      else ((w.toNat / 2 ^ lsb % 2 ^ 16 : Nat) : Int) := by
  have hsign : (w.extractLsb' lsb 16).msb = w.getLsbD (lsb + 15) := by simp [BitVec.msb_eq_getLsbD_last]
  rw [sample, BitVec.toInt_eq_msb_cond, hsign, BitVec.extractLsb'_toNat, Nat.shiftRight_eq_div_pow]
  rfl

/-- A sample depends on the bits of its window only. -/
theorem sample_congr {lsb : Nat} {v w : Word} (h : v.extractLsb' lsb 16 = w.extractLsb' lsb 16) :
    sample lsb v = sample lsb w :=
  congrArg BitVec.toInt h

/-- Settles O59: the window from bit 15 up holds a 16-bit signed number whose sign is bit 30. -/
theorem sampleExtraction : Obligations.SampleExtraction := fun w =>
  have ⟨hlow, hhigh⟩ := sample_mem_Icc 15 w
  ⟨hlow, hhigh, sample_eq_ite 15 w, fun _ h => sample_congr h⟩

end Sys2Proof.Proofs
end

section
/-! SUPPORT. The encodings (spec/30_encoding.md rules R91 to R99): decoding undoes encoding, an encoding that decodes is
the encoding of its instruction, and the legal command words are the ones that decode. -/

namespace Sys2Proof.Proofs

open Sys2Proof Sys2Proof.Machine Sys2Proof.Laws

/-! ## Decoding what the encoder wrote -/

/-- A read of the register at a window offset decodes as a read of that register, wherever the window lies. -/
theorem decode_readAt {off : Word} (h : off.toNat < 64 ∧ off.toNat % 4 = 0) (base : Word) :
    decode base (readAt base off) = decodeRead (off.toNat / 4) := by
  simp [decode, readAt, decodeBus, h]

/-- A write of the register at a window offset decodes as a write of that register, wherever the window lies. -/
theorem decode_writeAt {off : Word} (h : off.toNat < 64 ∧ off.toNat % 4 = 0) (v base : Word) :
    decode base (writeAt base off v) = decodeWrite (off.toNat / 4) v := by
  simp [decode, writeAt, decodeBus, h]

/-- Settles O2: a command word by its bits, a transaction by the index of its register. -/
theorem decodeUndoesEncode : Obligations.DecodeUndoesEncode := by
  intro base i
  cases i with
  | init | start | stop | record => rfl
  | getbuf b => cases b <;> rfl
  | wrCfgUnit v | wrCfgDpin v | wrCfgCpin v | wrCfgFreq v | wrCfgCount v | wrCmd v =>
    exact decode_writeAt (by decide) v base
  | rdCfgUnit | rdCfgDpin | rdCfgCpin | rdCfgFreq | rdCfgCount | rdStatus | rdResult | rdBuf0Addr | rdBuf1Addr
  | rdSwapcnt | rdTeWaddr | rdTeRemain | rdRxqLevel =>
    exact decode_readAt (by decide) base

/-- Settles O1: the decoder computes on the words of 95 section 2. -/
theorem specWordsDecode : Obligations.SpecWordsDecode :=
  ⟨rfl, rfl, rfl, rfl, rfl, rfl, rfl, rfl, rfl, rfl, rfl⟩

/-! ## Encoding what the decoder read -/

/-- A word whose bits [31:5] are 0 is its own `op` and `b`, packed (30 R91). -/
theorem packCmd_fields {v : Word} (h : v.extractLsb' 5 27 = 0#27) :
    packCmd (v.extractLsb' 0 4) (v.getLsbD 4) = v := by
  have hhigh : ∀ j, v.getLsbD (5 + j) = false := by
    intro j
    by_cases hj : j < 27
    · have := congrArg (BitVec.getLsbD · j) h
      simpa [hj] using this
    · exact BitVec.getLsbD_of_ge _ _ (by omega)
  ext i hi
  rw [← BitVec.getLsbD_eq_getElem, ← BitVec.getLsbD_eq_getElem]
  simp only [packCmd, BitVec.getLsbD_append, BitVec.getLsbD_extractLsb', BitVec.getLsbD_ofBool, BitVec.getLsbD_zero]
  by_cases hop : i < 4
  · simp [hop]
  by_cases hb : i = 4
  · simp [hb]
  obtain ⟨j, rfl⟩ : ∃ j, i = 5 + j := ⟨i - 5, by omega⟩
  have h1 : ¬5 + j - 4 < 1 := by omega
  simp [hop, h1, hhigh]

/-- A command word that decodes is what the encoder writes for the command. -/
theorem encode_of_decodeCmd {base v : Word} {i : Instr} (h : decodeCmd v = .ok i) : encode base i = .cmdWord v := by
  unfold decodeCmd at h
  split at h
  case isFalse => cases h
  next hz =>
    rw [← packCmd_fields hz]
    have op_eq : ∀ {n : Nat}, (v.extractLsb' 0 4).toNat = n → v.extractLsb' 0 4 = BitVec.ofNat 4 n := by
      rintro n rfl
      exact ((BitVec.ofNat_toNat ..).trans (BitVec.setWidth_eq _)).symm
    split at h <;> cases h
    case h_4 => next hop => rw [op_eq hop]; rfl
    all_goals
      next hop hb => rw [op_eq hop, hb]; rfl

/-- A write that decodes is what the encoder writes, at the register's offset. -/
theorem encode_of_decodeWrite {base v : Word} {idx : Nat} {i : Instr} (h : decodeWrite idx v = .ok i) :
    encode base i = writeAt base (BitVec.ofNat 32 (4 * idx)) v := by
  unfold decodeWrite at h
  split at h <;> cases h
  all_goals rfl

/-- A read that decodes is what the encoder writes, at the register's offset. -/
theorem encode_of_decodeRead {base : Word} {idx : Nat} {i : Instr} (h : decodeRead idx = .ok i) :
    encode base i = readAt base (BitVec.ofNat 32 (4 * idx)) := by
  unfold decodeRead at h
  split at h <;> cases h
  all_goals rfl

/-- What a transaction that decodes is: a word-wide access of a register of the window. -/
theorem decode_bus_ok {base : Word} {t : BusTuple} {i : Instr} (h : decode base (.bus t) = .ok i) :
    ∃ idx, t.addr = base + BitVec.ofNat 32 (4 * idx) ∧ t.width = .w4 ∧
      (t.kind = .read ∧ decodeRead idx = .ok i ∨ t.kind = .write ∧ decodeWrite idx t.wdata = .ok i) := by
  simp only [decode, decodeBus] at h
  split at h
  · cases h
  split at h
  · cases h
  split at h
  · cases h
  next hw hal =>
    have haddr : t.addr = base + BitVec.ofNat 32 (4 * ((t.addr - base).toNat / 4)) := by
      rw [Nat.mul_div_cancel' (Nat.dvd_of_mod_eq_zero (not_not.1 hal)), BitVec.ofNat_toNat, BitVec.setWidth_eq]
      simp [BitVec.add_comm base]
    refine ⟨_, haddr, not_not.1 hw, ?_⟩
    split at h
    · next hk => exact .inl ⟨hk, h⟩
    · next hk => exact .inr ⟨hk, h⟩

/-- Settles O3: the fields of a word, and the address, width and data of a transaction, are those its instruction
encodes to. -/
theorem encodeUndoesDecode : Obligations.EncodeUndoesDecode := by
  intro base i
  refine ⟨fun w => encode_of_decodeCmd, fun t h hk => ?_, fun t h hk => ?_⟩
  · obtain ⟨idx, haddr, hw, ⟨hr, -⟩ | ⟨-, hd⟩⟩ := decode_bus_ok h
    · simp [hk] at hr
    · rw [encode_of_decodeWrite hd, writeAt, ← haddr, ← hw, ← hk]
  · obtain ⟨idx, haddr, hw, ⟨-, hd⟩ | ⟨hr, -⟩⟩ := decode_bus_ok h
    · rw [encode_of_decodeRead hd, readAt, ← haddr, ← hw, ← hk]
    · simp [hk] at hr

/-! ## Exactly the legal encodings decode -/

/-- A legal command word decodes (30 R92): its `op` is one of the five, and its `b` is 0 outside GETBUF. -/
theorem exists_decodeCmd_of_wf {v : Word} (h : cmdWordWf v = true) : ∃ i, decodeCmd v = .ok i := by
  simp only [cmdWordWf, Bool.and_eq_true, decide_eq_true_eq, Bool.or_eq_true, Bool.not_eq_true'] at h
  obtain ⟨⟨hz, hlo, hhi⟩, hb⟩ := h
  unfold decodeCmd
  rw [if_pos hz]
  generalize (v.extractLsb' 0 4).toNat = op at *
  generalize v.getLsbD 4 = b at *
  interval_cases op <;> cases b <;> simp_all

/-- The legal command words are the ones that decode (30 R94). -/
theorem exists_decodeCmd_iff {v : Word} : (∃ i, decodeCmd v = .ok i) ↔ cmdWordWf v = true := by
  refine ⟨fun ⟨i, hi⟩ => ?_, exists_decodeCmd_of_wf⟩
  by_contra hn
  rw [decodeCmd_of_not_wf (by simpa using hn)] at hi
  cases hi

/-- Settles O4: a command word by 30 R94, a transaction by 30 R95 and R96. -/
theorem decodeAcceptsLegalOnly : Obligations.DecodeAcceptsLegalOnly := by
  intro base e
  cases e with
  | cmdWord w => exact exists_decodeCmd_iff
  | bus t => exact exists_decode_bus_iff

end Sys2Proof.Proofs
end

section
/-! SUPPORT. Turns (spec/00_scope.md rules R6 to R8): what a step is on each agent's turn, when each agent has a step,
and what the next operation of the host becomes. -/

namespace Sys2Proof.Proofs

open Sys2Proof Sys2Proof.Machine Sys2Proof.Laws

/-! ## APP's turn -/

/-- The count of deferred APP steps goes up while the interrupt is pending and enabled (log 11). -/
theorem countDefer_eq (s : State) :
    countDefer s = { s with env := { s.env with
      irqDefer := s.env.irqDefer + if s.irq.pend = true ∧ s.irq.en = true then 1 else 0 } } := by
  have hcount : (irqLine s).toNat = if s.irq.pend = true ∧ s.irq.en = true then 1 else 0 := by
    rw [irqLine]
    cases s.irq.pend <;> cases s.irq.en <;> rfl
  rw [countDefer, hcount]
  rfl

/-- APP's step is the micro-step of a command in progress that does not wait (43 R180). -/
theorem actionOf_app_micro {s : State} {i : Instr} (hf : s.flt.fault = false) (hh : s.ch.inHandler = false)
    (hd : deferSpent s = false) (hi : inProgress s.cmd = some i) (hw : appWaiting s = false) :
    actionOf .app s = .micro i := by
  simp [actionOf, appAction, hf, hh, hd, hi, hw]

/-- APP's step is the host's next operation when the host may act (44 R220). -/
theorem actionOf_app_host {s : State} (hs : HostMayAct s) (hd : deferSpent s = false) :
    actionOf .app s = hostAction s := by
  obtain ⟨hf, hh, hc⟩ := hs
  simp [actionOf, appAction, hf, hh, hd, inProgress, hc]

/-- Settles O8: APP's action is the micro-step, and its step counts the deferral. -/
theorem stepRunsCommandMicroStep : Obligations.StepRunsCommandMicroStep := by
  intro s i turns hsched hf hh hd hi hw
  rw [step_cons hsched, actionOf_setSched, actionOf_app_micro hf hh hd hi hw, perform_micro, countDefer_eq]
  rfl

/-- On APP's turn, when the host may act, a step issues the host's next operation. -/
theorem step_of_hostOps {s : State} {op : HostOp} {turns : List Turn} {rest : List HostOp}
    (hsched : s.env.sched = .app :: turns) (hs : HostMayAct s) (hd : deferSpent s = false)
    (hops : s.env.hostOps = op :: rest) :
    step s = issue op { s with env := { s.env with
      sched := turns
      hostOps := rest
      irqDefer := s.env.irqDefer + if s.irq.pend = true ∧ s.irq.en = true then 1 else 0 } } := by
  have ha : hostAction s = .host op := by simp [hostAction, hops]
  rw [step_cons hsched, actionOf_setSched, actionOf_app_host hs hd, ha, perform_host, countDefer_eq]
  simp [dropHostOp, State.setEnv, hops]

/-- An encoding is issued by decoding it. -/
theorem issue_hostOpOf (e : Encoding) (s : State) : issue (hostOpOf e) s = runEncoding e s := by
  cases e <;> rfl

/-- When the host may act, an illegal command word records ILLEGAL_CMD and does nothing else (44 R225). -/
theorem runEncoding_cmdWord_of_not_wf {s : State} {w : Word} (hs : HostMayAct s) (h : cmdWordWf w = false) :
    runEncoding (.cmdWord w) s = .next (faulted .illegalCmd s) := by
  have hd : decode s.par.sauBase (.cmdWord w) = .error .illegalCommand := decodeCmd_of_not_wf h
  rw [runEncoding_error hd, reject, hostGate_open hs, takeFault_of_no_fault hs.1]

/-- A transaction outside the window is refused (30 R95). -/
theorem runEncoding_bus_outside {s : State} {t : BusTuple} (h : 64 ≤ (t.addr - s.par.sauBase).toNat) :
    runEncoding (.bus t) s = .refused .outsideWindow := by
  have hd : decode s.par.sauBase (.bus t) = .error .outsideWindow := by
    rw [decode, decodeBus, if_pos h]
  rw [runEncoding_error hd, reject]

/-- Settles O7: the step issues the operation, and an encoding is decoded. -/
theorem stepRunsHostTransaction : Obligations.StepRunsHostTransaction := by
  intro s op turns rest hsched hs hd hops s'
  have hstep : step s = issue op s' := step_of_hostOps hsched hs hd hops
  have hs' : HostMayAct s' := hs
  refine ⟨?decoded, ?word, ?access, ?outside, ?load, ?store⟩
  case decoded =>
    rintro e i rfl hi
    exact (hstep.trans (issue_hostOpOf e s')).trans (runEncoding_ok hi)
  case word =>
    rintro w rfl hw
    exact hstep.trans (runEncoding_cmdWord_of_not_wf hs' hw)
  case access =>
    rintro t rfl hin ht
    exact hstep.trans (runEncoding_bus_of_not_wf hs' hin ht)
  case outside =>
    rintro t rfl hout
    exact hstep.trans (runEncoding_bus_outside hout)
  case load => rintro a w rfl; exact hstep
  case store => rintro a w v rfl; exact hstep

/-! ## A word of the opcode table -/

/-- A table word decodes alike wherever the window lies: it gives an offset. -/
theorem decode_tableEncoding (base : Word) (nbits w : Nat) :
    decode base (tableEncoding base nbits w) = decode 0#32 (tableEncoding 0#32 nbits w) := by
  unfold tableEncoding
  split
  · rfl
  · simp [decode, decodeBus]

/-- A table word that decodes, decodes with its window in place too. -/
theorem decode_of_decodeTableWord {base : Word} {nbits w : Nat} {i : Instr} (h : decodeTableWord nbits w = some i) :
    decode base (tableEncoding base nbits w) = .ok i := by
  rw [decode_tableEncoding]
  unfold decodeTableWord at h
  split at h <;> cases h
  assumption

/-- Settles O11: the placed word is the host's next operation on APP's turn. -/
theorem placedWordRuns : Obligations.PlacedWordRuns := by
  intro s nbits w i hs hd hi
  have hs' : HostMayAct (s.withFetchWord nbits w) := hs
  exact (step_of_hostOps rfl hs' hd rfl).trans
    ((issue_hostOpOf _ _).trans (runEncoding_ok (decode_of_decodeTableWord hi)))

/-! ## The turns of the other agents -/

/-- Settles O45: a reset turn resets. -/
theorem resetEvent : Obligations.ResetEvent := by
  intro s turns hsched
  rw [step_cons hsched]
  rfl

/-- The handler holds APP back until a fault is recorded (00 R8). -/
theorem actionOf_app_inHandler {s : State} (hf : s.flt.fault = false) (hh : s.ch.inHandler = true) :
    actionOf .app s = .idle := by
  simp [actionOf, appAction, hf, hh]

/-- On a turn, a step is that agent's action with the turn taken. -/
theorem step_of_sched {s : State} {u : Turn} {turns : List Turn} (hsched : s.env.sched = u :: turns) :
    step s = perform (actionOf u s) { s with env := { s.env with sched := turns } } := by
  rw [step_cons hsched, actionOf_setSched]
  rfl

/-- Settles O9: the step on a turn is the agent's action. -/
theorem stepTakesTheTurn : Obligations.StepTakesTheTurn := by
  intro s turns s'
  refine ⟨fun h => ?sau, fun h => ?te, fun h hin => ?enter, fun h hin => ?inside, fun h hf hin => ?app⟩
  case sau =>
    rw [step_of_sched h, actionOf_sau]
    split <;> rfl
  case te =>
    rw [step_of_sched h, actionOf_te]
    simp only [teEnabled_eq_true_iff, List.length_pos_iff]
    split <;> rfl
  case enter =>
    rw [step_of_sched h, actionOf_irq_outside hin]
    simp only [irqLine_eq_true_iff]
    split <;> rfl
  case inside =>
    rw [step_of_sched h, actionOf_irq_inside hin]
    refine ⟨fun hp => ?_, fun hp => ?_, fun hp => ?_⟩ <;> rw [hp] <;> rfl
  case app =>
    rw [step_of_sched h, actionOf_app_inHandler hf hin]
    rfl

/-! ## When each agent has a step -/

/-- The SAU has a step while it is enabled (40 R126). -/
theorem actionOf_sau_eq_iff {s : State} : actionOf .sau s = .sauWord ↔ s.sau.en = true := by
  rw [actionOf_sau]
  split <;> simp [*]

/-- The interrupt has a step when it can be taken, and at every position of the handler (42 R160). -/
theorem actionOf_irq_ne_idle_iff {s : State} :
    actionOf .irq s ≠ .idle ↔ (s.irq.pend = true ∧ s.irq.en = true ∧ s.ch.inHandler = false) ∨
      (s.ch.inHandler = true ∧ s.ch.hpc ≠ .idle) := by
  cases hin : s.ch.inHandler with
  | false => simp [actionOf_irq_outside hin, irqLine_eq_true_iff]
  | true =>
    rw [actionOf_irq_inside hin]
    cases s.ch.hpc <;> simp [handlerAction]

/-- The host's own action is never a micro-step. -/
theorem hostAction_ne_micro (s : State) (i : Instr) : hostAction s ≠ .micro i := by
  unfold hostAction
  split <;> simp

/-- A command in progress is one of the five (43 R180). -/
theorem inProgress_eq_none_iff {c : Command} : inProgress c = none ↔ c.op = .none := by
  unfold inProgress
  split <;> simp [*]

/-- APP takes a micro-step only outside the handler, with a command in progress that does not wait. -/
theorem of_actionOf_app_micro {s : State} {i : Instr} (hf : s.flt.fault = false) (h : actionOf .app s = .micro i) :
    s.ch.inHandler = false ∧ inProgress s.cmd = some i ∧ appWaiting s = false := by
  simp only [actionOf, appAction, hf, Bool.false_eq_true, if_false] at h
  split at h
  · cases h
  next hh =>
    split at h
    · next j hj =>
      split at h
      · cases h
      next hw =>
        cases h
        exact ⟨by simp at hh; exact hh.1, hj, by simpa using hw⟩
    · exact absurd h (hostAction_ne_micro s i)

/-- APP takes an operation of the host only outside the handler, with no command in progress. -/
theorem of_actionOf_app_host {s : State} {op : HostOp} (hf : s.flt.fault = false) (h : actionOf .app s = .host op) :
    s.ch.inHandler = false ∧ s.cmd.op = .none := by
  simp only [actionOf, appAction, hf, Bool.false_eq_true, if_false] at h
  split at h
  · cases h
  next hh =>
    split at h
    · split at h <;> cases h
    · next hj => exact ⟨by simp at hh; exact hh.1, inProgress_eq_none_iff.1 hj⟩

/-- The two waits: GETBUF at G2, RECORD at K2 on an empty queue (00 R12). -/
theorem appWaiting_eq_false {s : State} (h : appWaiting s = false) :
    ¬(s.cmd.op = .getbuf ∧ s.cmd.cpc.toNat = 2 ∧ s.ses.active = s.cmd.gbA0) ∧
    ¬(s.cmd.op = .record ∧ s.cmd.cpc.toNat = 2 ∧ s.sau.rxq = []) := by
  constructor
  · rintro ⟨hop, hk, ha⟩
    simp [appWaiting, hop, hk, ha] at h
  · rintro ⟨hop, hk, hq⟩
    simp [appWaiting, hop, hk, dreq, hq] at h

/-- Once the interrupt has been deferred as long as it may be, APP has no step (00 R10). -/
theorem actionOf_app_of_deferSpent {s : State} (hf : s.flt.fault = false) (hd : deferSpent s = true) :
    actionOf .app s = .idle := by
  simp [actionOf, appAction, hf, hd]

/-- Settles O10: each agent's action by the conditions it is defined from, and a primitive by what it answers. -/
theorem enablingConditions : Obligations.EnablingConditions := by
  intro s
  refine ⟨actionOf_sau_eq_iff, ?te, actionOf_irq_ne_idle_iff, ?micro, ?host, ?defer, fun t => actionOf_isPrimitive t s,
    fun hf => ?primitives⟩
  case te => rw [actionOf_te_eq_teCopy_iff, List.length_pos_iff]
  case micro =>
    rintro hf ⟨i, h⟩
    obtain ⟨hh, hi, hw⟩ := of_actionOf_app_micro hf h
    have hop : s.cmd.op ≠ .none := fun h => by simp [inProgress_eq_none_iff.2 h] at hi
    exact ⟨hh, hop, appWaiting_eq_false hw⟩
  case host =>
    rintro hf ⟨op, h⟩
    exact of_actionOf_app_host hf h
  case defer =>
    intro b hb hle hp he hf
    exact actionOf_app_of_deferSpent hf (by simp [deferSpent, irqLine, hp, he, hb, hle])
  case primitives =>
    have run : ∀ t, runPrimitive (some t) s = .next t := fun t => runPrimitive_eq hf (some t)
    have misuse : runPrimitive none s = .next (faulted .teMisuse s) := by
      rw [runPrimitive_eq hf, Option.getD_none, takeFault_of_no_fault hf]
    refine ⟨fun _ _ _ _ => run (sauConfig ..), run (sauClear s), run (sauRestart s), run (sauEnable s),
      run (sauDisable s), fun w t ht => ?pop, run (teClaim s), fun a n t ht => ?arm, fun a t ht => ?retrigger,
      fun hb a n => ⟨?armBusy, ?retriggerBusy⟩, run (teAbort s), run (teAck s)⟩
    case pop => rw [perform, dropHead, ht, run]
    case arm => rw [perform, ht, run]
    case retrigger => rw [perform, ht, run]
    case armBusy => rw [perform, teArm_of_busy hb, misuse]
    case retriggerBusy => rw [perform, teRetrigger_of_busy hb, misuse]

/-- The host has its next operation, if any. -/
theorem hostAction_cases (s : State) :
    hostAction s = .idle ∨ ∃ op rest, s.env.hostOps = op :: rest ∧ hostAction s = .host op := by
  unfold hostAction
  split
  · exact .inl rfl
  · next op rest h => exact .inr ⟨op, rest, h, rfl⟩

/-- Without an operation the host does nothing. -/
theorem hostAction_of_nil {s : State} (h : s.env.hostOps = []) : hostAction s = .idle := by
  simp [hostAction, h]

/-- In a quiescent state APP has at most an operation of the host (70 R298). -/
theorem actionOf_app_of_none {s : State} (hc : s.cmd.op = .none) :
    actionOf .app s = .idle ∨ actionOf .app s = hostAction s := by
  simp only [actionOf, appAction, inProgress_eq_none_iff.2 hc]
  split
  · exact .inr rfl
  · split
    · exact .inl rfl
    · exact .inr rfl

/-- With nobody enabled and no turn decided on, a step changes nothing. -/
theorem step_of_enabledTurns_nil {s : State} (hs : s.env.sched = []) (h : enabledTurns s = []) : step s = .next s := by
  have ht : takeTurn s = (none, s) := by simp [takeTurn, hs, h]
  rw [step_eq, ht]

/-- Settles O46: each agent but APP lacks what its step needs, and APP has the host's operation at most. -/
theorem quiescentStatesIdle : Obligations.QuiescentStatesIdle := by
  rintro s ⟨hc, hh, hb, hen, hirq⟩
  have irq : actionOf .irq s = .idle := by
    rw [actionOf_irq_outside hh, if_neg]
    rw [irqLine_eq_true_iff]
    rcases hirq with h | h <;> simp [h]
  have sau : actionOf .sau s = .idle := by simp [actionOf_sau, hen]
  have te : actionOf .te s = .idle := by simp [actionOf_te, teEnabled, hb]
  have app := actionOf_app_of_none hc
  refine ⟨irq, sau, te, ?app, fun hops => ?rest⟩
  case app =>
    rcases app with h | h
    · exact .inl h
    · rw [h]
      exact hostAction_cases s
  case rest =>
    have app' : actionOf .app s = .idle := app.elim id fun h => h.trans (hostAction_of_nil hops)
    have hnil := enabledTurns_eq_nil_iff.2 ⟨app', irq, sau, te⟩
    exact ⟨hnil, fun hs => step_of_enabledTurns_nil hs hnil⟩

end Sys2Proof.Proofs
end

section
/-! SUPPORT. The host's reads and the frame of the register accesses (spec/44_host_access_and_sample_format.md rules R223
to R227), the fields of `STATUS` (spec/10_state.md rule R41), and what a recorded fault stops (spec/60_exceptions.md
rule R243). -/

namespace Sys2Proof.Proofs

open Sys2Proof Sys2Proof.Machine Sys2Proof.Laws

/-! ## Reads -/

/-- When the host may act, a read returns its value and does nothing else (44 R224, R227). -/
theorem readView_open {s : State} (hs : HostMayAct s) (v : Word) : readView v s = .next (returnToHost v s) :=
  hostGate_open hs fun s => .next (returnToHost v s)

/-- Settles O14: each of the twelve reads is the read of its register or view. -/
theorem readRegisters : Obligations.ReadRegisters := fun _ hs =>
  ⟨readView_open hs _, readView_open hs _, readView_open hs _, readView_open hs _, readView_open hs _,
    readView_open hs _, readView_open hs _, readView_open hs _, readView_open hs _, readView_open hs _,
    readView_open hs _, readView_open hs _⟩

/-! ## `STATUS` -/

/-- The read of `STATUS` returns it when the host may act, and after a fault (log 21). -/
theorem exec_rdStatus {s : State} (h : HostMayAct s ∨ s.flt.fault = true) :
    exec .rdStatus s = .next (returnToHost (statusWord s) s) := by
  rw [exec, execRdStatus]
  rcases h with hs | hf
  · rw [if_neg (by simp [hs.1]), readView_open hs]
  · rw [if_pos hf]

/-- The field appended last stands lowest. -/
theorem extractLsb'_append_lowest {v w : Nat} (x : BitVec v) (y : BitVec w) : (x ++ y).extractLsb' 0 w = y := by
  rw [BitVec.extractLsb'_append_eq_of_add_le (by omega), BitVec.extractLsb'_eq_self]

/-- The flag appended last is the lowest bit. -/
theorem getLsbD_append_flag {v : Nat} (x : BitVec v) (b : Bool) : (x ++ BitVec.ofBool b).getLsbD 0 = b := by
  rw [BitVec.getLsbD_append, if_pos Nat.one_pos]
  simp

/-- A bit above the field appended last is a bit of the rest. -/
theorem getLsbD_append_of_le {v w i : Nat} {x : BitVec v} {y : BitVec w} (h : w ≤ i) :
    (x ++ y).getLsbD i = x.getLsbD (i - w) := by
  rw [BitVec.getLsbD_append, if_neg (by omega)]

/-- The fields of `STATUS` that are wider than a bit, and its reserved bits (10 R41). -/
theorem statusWord_fields (s : State) :
    (statusWord s).extractLsb' 0 2 = s.ses.sess.code ∧ (statusWord s).extractLsb' 9 3 = 0#3 ∧
    (statusWord s).extractLsb' 12 4 = s.rep.err.code ∧ (statusWord s).extractLsb' 16 8 = s.flt.cause.code ∧
    (statusWord s).extractLsb' 24 8 = 0#8 := by
  unfold statusWord
  refine ⟨extractLsb'_append_lowest _ _, ?_, ?_, ?_, ?top⟩
  all_goals repeat rw [BitVec.extractLsb'_append_eq_of_le (by decide)]
  case top => rfl
  all_goals exact extractLsb'_append_lowest _ _

/-- The flags of `STATUS` (10 R41). -/
theorem statusWord_flags (s : State) :
    (statusWord s).getLsbD 2 = s.ses.active ∧ (statusWord s).getLsbD 3 = s.sau.en ∧
    (statusWord s).getLsbD 4 = s.te.busy ∧ (statusWord s).getLsbD 5 = s.irq.pend ∧
    (statusWord s).getLsbD 6 = s.irq.en ∧ (statusWord s).getLsbD 7 = s.sau.rxovf ∧
    (statusWord s).getLsbD 8 = s.flt.fault := by
  unfold statusWord
  refine ⟨?_, ?_, ?_, ?_, ?_, ?_, ?_⟩
  all_goals repeat rw [getLsbD_append_of_le (by decide)]
  all_goals exact getLsbD_append_flag _ _

/-- Settles O15: the read returns `statusWord`, whose bits are its fields. -/
theorem readStatusRegister : Obligations.ReadStatusRegister := by
  intro s hs
  obtain ⟨hsess, hres, herr, hcause, htop⟩ := statusWord_fields s
  obtain ⟨hactive, hen, hbusy, hpend, hirq, hovf, hfault⟩ := statusWord_flags s
  exact ⟨statusWord s, exec_rdStatus hs, hsess, hactive, hen, hbusy, hpend, hirq, hovf, hfault, hres, herr, hcause,
    htop⟩

/-! ## The frame of the register accesses -/

/-- A register read gives its value to the host and does nothing else, also after a fault. -/
theorem execRdStatus_next {s t : State} (h : execRdStatus s = .next t) : ∃ v, t = returnToHost v s := by
  unfold execRdStatus at h
  split at h
  · cases h; exact ⟨_, rfl⟩
  · exact ⟨_, (readView_next h).2⟩

/-- All a write of `CMD` can do: start a command or take a fault (44 R225). -/
theorem execWrCmd_next {v : Word} {s t : State} (h : execWrCmd v s = .next t) :
    ∃ c f, t = (s.setCmd c).setFlt f := by
  obtain ⟨-, h⟩ := hostGate_next h
  cases h
  unfold writeCommand
  split
  · exact ⟨_, _, rfl⟩
  · split
    · exact ⟨_, _, rfl⟩
    · exact ⟨{ s.cmd with op := _, b := _, cpc := 0#32 }, s.flt, rfl⟩

/-- Settles O16: a configuration write sets the staging registers, a CMD write the command and the fault record, a
read the value returned. -/
theorem registerAccessFrame : Obligations.RegisterAccessFrame := by
  intro i s t hi h
  cases i with
  | init | start | stop | getbuf _ | record => cases hi
  | wrCmd v =>
    obtain ⟨c, f, rfl⟩ := execWrCmd_next h
    simp
  | wrCfgUnit v | wrCfgDpin v | wrCfgCpin v | wrCfgFreq v | wrCfgCount v =>
    obtain ⟨-, rfl⟩ := writeStage_next h
    simp
  | rdStatus =>
    obtain ⟨v, rfl⟩ := execRdStatus_next h
    simp [returnToHost]
  | rdCfgUnit | rdCfgDpin | rdCfgCpin | rdCfgFreq | rdCfgCount | rdResult | rdBuf0Addr | rdBuf1Addr | rdSwapcnt
  | rdTeWaddr | rdTeRemain | rdRxqLevel =>
    obtain ⟨-, rfl⟩ := readView_next h
    simp [returnToHost]

/-! ## After a recorded fault -/

/-- After a recorded fault no command has a step (60 R243). -/
theorem commandStep_of_fault {s : State} (hf : s.flt.fault = true) (op : CmdOp) (b : Bool)
    (micro : Nat → State → Out) : commandStep op b micro s = .fault .afterFault := by
  rw [commandStep, if_pos hf]

/-- After a recorded fault no register is read or written (60 R243). -/
theorem readView_of_fault {s : State} (hf : s.flt.fault = true) (v : Word) : readView v s = .fault .afterFault :=
  hostGate_of_fault hf _

theorem writeStage_of_fault {s : State} (hf : s.flt.fault = true) (x : Stage) :
    writeStage x s = .fault .afterFault :=
  hostGate_of_fault hf _

theorem execWrCmd_of_fault {s : State} (hf : s.flt.fault = true) (v : Word) :
    execWrCmd v s = .fault .afterFault :=
  hostGate_of_fault hf _

/-- After a recorded fault every instruction but RD STATUS stops (60 R243). -/
theorem exec_of_fault {s : State} {i : Instr} (hf : s.flt.fault = true) (hi : i ≠ .rdStatus) :
    exec i s = .fault .afterFault := by
  cases i with
  | init | start | stop | getbuf _ | record => exact commandStep_of_fault hf _ _ _
  | rdStatus => exact absurd rfl hi
  | wrCmd v => exact execWrCmd_of_fault hf v
  | wrCfgUnit v | wrCfgDpin v | wrCfgCpin v | wrCfgFreq v | wrCfgCount v => exact writeStage_of_fault hf _
  | rdCfgUnit | rdCfgDpin | rdCfgCpin | rdCfgFreq | rdCfgCount | rdResult | rdBuf0Addr | rdBuf1Addr | rdSwapcnt
  | rdTeWaddr | rdTeRemain | rdRxqLevel => exact readView_of_fault hf _

/-- What taking a fault does, written out (60 R243). -/
theorem takeFault_eq (c : Cause) (s : State) :
    takeFault c s = { s with
      flt := if s.flt.fault = true then s.flt else { fault := true, cause := c }
      cmd := { s.cmd with op := .none, cpc := 0#32 } } := by
  cases hf : s.flt.fault with
  | false => exact takeFault_of_no_fault hf c
  | true => rw [takeFault, recordFault_of_fault hf]; rfl

/-- Settles O41: the record by `takeFault`'s two cases, and every other step by the test of `fault` it begins with. -/
theorem faultMechanism : Obligations.FaultMechanism := fun s =>
  ⟨fun c => takeFault_eq c s, fun hf =>
    ⟨fun _ hi => exec_of_fault hf hi, if_pos hf, if_pos hf, if_pos hf, if_pos hf, if_pos hf, if_pos hf⟩⟩

end Sys2Proof.Proofs
end

section
/-! SUPPORT. The allocator's answers and the zero fill of two buffers (spec/20_memory.md rules R70 and R63,
spec/43_controller_commands.md rule R185). -/

namespace Sys2Proof.Proofs

open Sys2Proof Sys2Proof.Machine Sys2Proof.Laws

/-! ## The allocator -/

/-- The answers the model's check allows are those of 20 R70. -/
theorem allocOk_iff {p : Params} {live : List Region} {n : Nat} {a : Word} :
    allocOk p live n a = true ↔ AllocAllows p live n a := by
  simp [allocOk, AllocAllows, disjointRanges, and_assoc]

/-- The answer the environment has decided on is the one drawn. -/
theorem drawAnswer_cons {s : State} {x : Option Word} {rest : List (Option Word)} (h : s.env.allocs = x :: rest) :
    drawAnswer s = (x, s.setEnv { s.env with allocs := rest }) := by
  unfold drawAnswer
  simp [h]

/-- A FAIL decided on makes the allocation fail (20 R70). -/
theorem alloc_of_fail {s : State} {rest : List (Option Word)} (h : s.env.allocs = none :: rest) (n : Nat) :
    alloc n s = (none, s.setEnv { s.env with allocs := rest }) := by
  simp [alloc, drawAnswer_cons h]

/-- An allowed answer decided on is given, and its region is live (20 R70). -/
theorem alloc_of_allowed {s : State} {n : Nat} {a : Word} {rest : List (Option Word)}
    (h : s.env.allocs = some a :: rest) (ha : AllocAllows s.par s.live n a) :
    alloc n s = (some a, (s.setEnv { s.env with allocs := rest }).setLive ({ base := a, size := n } :: s.live)) := by
  simp [alloc, drawAnswer_cons h, allocOk_iff.2 ha]

/-- An answer that R70 does not allow counts as FAIL (log 4). -/
theorem alloc_of_not_allowed {s : State} {n : Nat} {a : Word} {rest : List (Option Word)}
    (h : s.env.allocs = some a :: rest) (ha : ¬AllocAllows s.par s.live n a) :
    alloc n s = (none, s.setEnv { s.env with allocs := rest }) := by
  simp [alloc, drawAnswer_cons h, mt allocOk_iff.1 ha]

/-- Settles O49: all an allocation can do, and its answer where one is decided on. -/
theorem allocatorAnswers : Obligations.AllocatorAnswers := by
  intro n s
  refine ⟨?cases, fun rest h => ?fail, fun a rest h ha => ?allowed, fun a rest h ha => ?notAllowed⟩
  case cases =>
    obtain ⟨as, d, h | ⟨a, h, ha⟩⟩ := alloc_cases n s
    · exact ⟨as, d, .inl h⟩
    · exact ⟨as, d, .inr ⟨a, allocOk_iff.1 ha, h⟩⟩
  case fail => rw [alloc_of_fail h]
  case allowed => rw [alloc_of_allowed h ha]
  case notAllowed => rw [alloc_of_not_allowed h ha]

/-! ## The zero fill -/

/-- The address lies outside the word at `a`. -/
def OutsideWord (x : Nat) (a : Word) : Prop := x < a.toNat ∨ a.toNat + 4 ≤ x

/-- A zero byte stays zero when zeros are stored, wherever they are stored. -/
theorem read?_store_zero {m : Memory} {x : Nat} (hx : m.read? x = some 0#8) (a : Nat) :
    (m.store a 0#32 4).read? x = some 0#8 := by
  by_cases hin : a ≤ x ∧ x < a + 4
  · obtain ⟨i, rfl⟩ := Nat.exists_eq_add_of_le hin.1
    rw [read?_store_byte m a 0#32 (by omega)]
    simp
  · rw [read?_store_outside m a 0#32 4 x (by omega), hx]

/-- A zero word stays zero when a zero word is written, wherever it is written. -/
theorem holdsWord_zero_of_memWrite {p : Params} {m m' : Memory} {a : Word} {b : Nat}
    (h : memWrite p m a .w4 0#32 = some m') (hb : HoldsWord m b 0#32) : HoldsWord m' b 0#32 := by
  obtain ⟨-, rfl⟩ := memWrite_eq_some.1 h
  intro i hi
  have hbyte := hb i hi
  simp only [BitVec.extractLsb'_zero] at hbyte ⊢
  exact read?_store_zero hbyte _

/-- The step of the zero fill: the words before, then one word of each buffer. -/
theorem zeroFill_succ {p : Params} {a0 a1 : Word} {n : Nat} {m m' : Memory}
    (h : zeroFill p a0 a1 (n + 1) m = some m') :
    ∃ m0 m1, zeroFill p a0 a1 n m = some m0 ∧ memWrite p m0 (wordAddr a0 n) .w4 0#32 = some m1 ∧
      memWrite p m1 (wordAddr a1 n) .w4 0#32 = some m' := by
  simp only [zeroFill] at h
  split at h
  · cases h
  next m0 h0 =>
    split at h
    · cases h
    next m1 h1 => exact ⟨m0, m1, h0, h1, h⟩

/-- After the zero fill every word of both buffers is zero. -/
theorem holdsWord_of_zeroFill {p : Params} {a0 a1 : Word} {n k : Nat} {m m' : Memory}
    (h : zeroFill p a0 a1 n m = some m') (hk : k < n) :
    HoldsWord m' (wordAddr a0 k).toNat 0#32 ∧ HoldsWord m' (wordAddr a1 k).toNat 0#32 := by
  induction n generalizing m' with
  | zero => omega
  | succ n ih =>
    obtain ⟨m0, m1, h0, h1, h2⟩ := zeroFill_succ h
    have keep : ∀ {b}, HoldsWord m0 b 0#32 → HoldsWord m' b 0#32 := fun hb =>
      holdsWord_zero_of_memWrite h2 (holdsWord_zero_of_memWrite h1 hb)
    rcases Nat.lt_succ_iff_lt_or_eq.1 hk with hlt | rfl
    · exact (ih h0 hlt).imp keep keep
    · exact ⟨holdsWord_zero_of_memWrite h2 (holdsWord_of_memWrite h1), holdsWord_of_memWrite h2⟩

/-- The zero fill changes no byte outside the words it computes. -/
theorem read?_zeroFill_outside {p : Params} {a0 a1 : Word} {n x : Nat} {m m' : Memory}
    (h : zeroFill p a0 a1 n m = some m')
    (hx : ∀ k < n, OutsideWord x (wordAddr a0 k) ∧ OutsideWord x (wordAddr a1 k)) : m'.read? x = m.read? x := by
  induction n generalizing m' with
  | zero => simp only [zeroFill, Option.some.injEq] at h; rw [h]
  | succ n ih =>
    obtain ⟨m0, m1, h0, h1, h2⟩ := zeroFill_succ h
    obtain ⟨hx0, hx1⟩ := hx n (Nat.lt_succ_self n)
    calc m'.read? x
      _ = m1.read? x := sameOutside_of_memWrite h2 x hx1
      _ = m0.read? x := sameOutside_of_memWrite h1 x hx0
      _ = m.read? x := ih h0 fun k hk => hx k (Nat.lt_succ_of_lt hk)

/-- An address outside a region is outside each of its words. -/
theorem outsideWord_of_region {p : Params} {a : Word} {n k x : Nat} (h : RegionOk p a n) (hk : k < n)
    (hx : x < a.toNat ∨ a.toNat + 4 * n ≤ x) : OutsideWord x (wordAddr a k) := by
  unfold OutsideWord
  rw [wordAddr_toNat h hk]
  omega

/-- The zero fill of two regions: both zero, every other byte as before. -/
theorem exists_zeroFill {p : Params} {a0 a1 : Word} {n : Nat} (h0 : RegionOk p a0 n) (h1 : RegionOk p a1 n)
    (m : Memory) :
    ∃ m', zeroFill p a0 a1 n m = some m' ∧
      (∀ k < n, HoldsWord m' (a0.toNat + 4 * k) 0#32 ∧ HoldsWord m' (a1.toNat + 4 * k) 0#32) ∧
      (∀ x, (x < a0.toNat ∨ a0.toNat + 4 * n ≤ x) → (x < a1.toNat ∨ a1.toNat + 4 * n ≤ x) →
        m'.read? x = m.read? x) := by
  obtain ⟨m', h⟩ := zeroFill_regions h0 h1 m n le_rfl
  refine ⟨m', h, fun k hk => ?_, fun x hx0 hx1 => ?_⟩
  · rw [← wordAddr_toNat h0 hk, ← wordAddr_toNat h1 hk]
    exact holdsWord_of_zeroFill h hk
  · exact read?_zeroFill_outside h fun k hk => ⟨outsideWord_of_region h0 hk hx0, outsideWord_of_region h1 hk hx1⟩

end Sys2Proof.Proofs
end

section
/-! SUPPORT. The commands micro-step by micro-step (spec/43_controller_commands.md rules R181 to R198): what each
micro-step does, and whole commands with no step of another agent between. -/

namespace Sys2Proof.Proofs

open Sys2Proof Sys2Proof.Machine Sys2Proof.Laws

/-! ## A command at a micro-step -/

/-- INIT's next application step is the micro-step it has reached (43 R180); so for each command. -/
theorem exec_init_at {s : State} {k : Nat} (h : AtMicroStep .init k s) : exec .init s = initMicro k s :=
  commandStep_at h (by decide) nofun initMicro

theorem exec_start_at {s : State} {k : Nat} (h : AtMicroStep .start k s) : exec .start s = startMicro k s :=
  commandStep_at h (by decide) nofun startMicro

theorem exec_stop_at {s : State} {k : Nat} (h : AtMicroStep .stop k s) : exec .stop s = stopMicro k s :=
  commandStep_at h (by decide) nofun stopMicro

theorem exec_getbuf_at {s : State} {k : Nat} {b : Bool} (h : AtMicroStep .getbuf k s) (hb : s.cmd.b = b) :
    exec (.getbuf b) s = getbufMicro k s :=
  commandStep_at h (by decide) (fun _ => hb) getbufMicro

theorem exec_record_at {s : State} {k : Nat} (h : AtMicroStep .record k s) : exec .record s = recordMicro k s :=
  commandStep_at h (by decide) nofun recordMicro

/-- A check step with a cause faults with it (43 R181). -/
theorem checkStep_some {s : State} {cause : Option Cause} {c : Cause} (hf : s.flt.fault = false)
    (hc : cause = some c) (k : Nat) : checkStep cause k s = .next (faulted c s) := by
  rw [hc, checkStep, takeFault_of_no_fault hf]

/-- A check step without a cause goes on (43 R181). -/
theorem checkStep_none {s : State} {cause : Option Cause} (hc : cause = none) (k : Nat) :
    checkStep cause k s = .next { s with cmd := { s.cmd with cpc := BitVec.ofNat 32 k } } := by
  rw [hc]
  rfl

/-! ## The checks of INIT -/

/-- A session makes INIT fault with PV_REINIT (60 R245). -/
theorem initCause_of_session {s : State} (h : s.ses.sess ≠ .uninit) : initCause s = some .pvReinit := by
  simp [initCause, h]

/-- Without a session, a bad count, frequency or unit makes INIT fault with PV_BAD_PARAM. -/
theorem initCause_of_badParam {s : State} (hu : s.ses.sess = .uninit)
    (h : s.stage.count.toNat = 0 ∨ 2 ^ 30 - 1 < s.stage.count.toNat ∨ s.stage.freq = 0#32 ∨
      s.par.numSauUnits ≤ s.stage.unit.toNat) : initCause s = some .pvBadParam := by
  have hfreq : s.stage.freq = 0#32 ↔ s.stage.freq.toNat = 0 := BitVec.toNat_inj.symm
  rw [hfreq] at h
  unfold initCause
  rw [if_neg (not_not.2 hu)]
  by_cases hcount : s.stage.count.toNat = 0 ∨ s.stage.count.toNat > Config.maxCount
  · rw [if_pos hcount]
  rw [if_neg hcount]
  by_cases hf : s.stage.freq.toNat = 0
  · rw [if_pos hf]
  rw [if_neg hf, if_pos]
  rcases h with h | h | h | h
  · exact absurd (.inl h) hcount
  · exact absurd (.inr h) hcount
  · exact absurd h hf
  · exact h

/-- What is left of the checks when count, frequency and unit are legal: the pins (60 R245). -/
theorem initCause_of_params {s : State} (hu : s.ses.sess = .uninit) (hlo : 1 ≤ s.stage.count.toNat)
    (hhi : s.stage.count.toNat ≤ Config.maxCount) (hf : 1 ≤ s.stage.freq.toNat)
    (hunit : s.stage.unit.toNat < s.par.numSauUnits) :
    initCause s =
      if (s.stage.cpin.toNat ≥ s.par.numPins - 1 ∨ s.stage.dpin.toNat ≥ s.par.numPins) ∨
        (s.stage.dpin = s.stage.cpin ∨ s.stage.dpin = s.stage.cpin + 1#32) then some .pvPin else none := by
  unfold initCause
  rw [if_neg (not_not.2 hu), if_neg (by omega), if_neg (by omega), if_neg (by omega), ← ite_or]

/-- With legal parameters and no session INIT goes on (43 R185). -/
theorem initCause_of_legal {s : State} (hu : s.ses.sess = .uninit) (h : InitLegal s.par s.stage) :
    initCause s = none := by
  obtain ⟨hlo, hhi, hf, hunit, hc, hd, hdc, hdw⟩ := h
  rw [initCause_of_params hu hlo hhi hf hunit, if_neg]
  rintro ((h | h) | (h | h))
  · omega
  · omega
  · exact hdc h
  · exact hdw h

/-- Settles O18: each group of causes is reached once the groups before it are excluded. -/
theorem initChecksInOrder : Obligations.InitChecksInOrder := by
  intro s h
  have check : exec .init s = checkStep (initCause s) 1 s := exec_init_at h
  refine ⟨fun hs => ?reinit, fun hu hbad => ?badParam, fun hu hlo hhi hf hunit hpin => ?pin⟩
  case reinit => rw [check, checkStep_some h.1 (initCause_of_session hs)]
  case badParam => rw [check, checkStep_some h.1 (initCause_of_badParam hu hbad)]
  case pin =>
    have hf' : 1 ≤ s.stage.freq.toNat := Nat.one_le_iff_ne_zero.2 fun h0 => hf (BitVec.toNat_inj.1 h0)
    rw [check, checkStep_some h.1 ((initCause_of_params hu hlo hhi hf' hunit).trans (if_pos (or_assoc.2 hpin)))]

/-! ## Which command is legal in which session -/

/-- Settles O17: the check step of each command in each session. -/
theorem commandLegality : Obligations.CommandLegality := by
  intro s
  refine ⟨fun h hs => ?reinit, fun h hu hl => ?init, fun h => ?start, fun h => ?stop, fun b h hb => ?getbuf,
    fun h => ?record⟩
  case reinit => exact (exec_init_at h).trans (checkStep_some h.1 (initCause_of_session hs) 1)
  case init => exact (exec_init_at h).trans (checkStep_none (initCause_of_legal hu hl) 1)
  case start =>
    have check : exec .start s = checkStep (startCause s) 1 s := exec_start_at h
    rw [check, startCause]
    cases s.ses.sess with
    | uninit | active => exact checkStep_some h.1 rfl 1
    | ready => exact checkStep_none rfl 1
  case stop =>
    have check : exec .stop s = checkStep (stopCause s) 1 s := exec_stop_at h
    rw [check, stopCause]
    cases s.ses.sess with
    | uninit | ready => exact checkStep_some h.1 rfl 1
    | active => exact checkStep_none rfl 1
  case getbuf =>
    have check : exec (.getbuf b) s = checkStep (getbufCause s) (getbufEntry b) s :=
      (exec_getbuf_at h hb).trans (by rw [getbufMicro, getbufG0, hb])
    rw [check, getbufCause]
    cases s.ses.sess with
    | uninit => exact checkStep_some h.1 rfl _
    | ready | active => cases b <;> exact checkStep_none rfl _
  case record =>
    have check : exec .record s = checkStep (recordCause s) 1 s := exec_record_at h
    rw [check, recordCause]
    cases s.ses.sess with
    | uninit | active => exact checkStep_some h.1 rfl 1
    | ready => exact checkStep_none rfl 1

end Sys2Proof.Proofs
end

section
/-! SUPPORT. INIT (spec/43_controller_commands.md rule R185): its micro-steps, and a whole INIT with no step of another
agent between, with either outcome of the two allocations (spec/60_exceptions.md rule R241). -/

namespace Sys2Proof.Proofs

open Sys2Proof Sys2Proof.Machine Sys2Proof.Laws

/-- An uninterrupted command takes its application steps one after the other. -/
theorem execTimes_succ {i : Instr} {n : Nat} {s t : State} {o : Out} (h : exec i s = .next t)
    (hrest : execTimes i n t = o) : execTimes i (n + 1) s = o := by
  simp [execTimes, h, hrest]

/-- I1 with a FAIL decided on: OutOfMemory (43 R185). -/
theorem exec_init_I1_fail {s : State} {rest : List (Option Word)} (h : AtMicroStep .init 1 s)
    (ha : s.env.allocs = none :: rest) :
    exec .init s = .next { s with
      rep := { s.rep with err := .outOfMemory }
      cmd := { s.cmd with op := .none, cpc := 0#32 }
      env := { s.env with allocs := rest } } := by
  rw [exec_init_at h, initMicro, initI1, alloc_of_fail ha]
  rfl

/-- I1 with an allowed answer decided on: buffer 0 (43 R185). -/
theorem exec_init_I1 {s : State} {a : Word} {rest : List (Option Word)} (h : AtMicroStep .init 1 s)
    (ha : s.env.allocs = some a :: rest) (hok : AllocAllows s.par s.live (4 * s.stage.count.toNat) a) :
    exec .init s = .next { s with
      ses := { s.ses with buf0 := a }
      live := { base := a, size := 4 * s.stage.count.toNat } :: s.live
      cmd := { s.cmd with cpc := 2#32 }
      env := { s.env with allocs := rest } } := by
  rw [exec_init_at h, initMicro, initI1, alloc_of_allowed ha hok]
  rfl

/-- I2 with a FAIL decided on: buffer 0 is released, OutOfMemory (43 R185). -/
theorem exec_init_I2_fail {s : State} {rest : List (Option Word)} (h : AtMicroStep .init 2 s)
    (ha : s.env.allocs = none :: rest) :
    exec .init s = .next { s with
      ses := { s.ses with buf0 := 0#32 }
      live := s.live.filter fun r => r.base ≠ s.ses.buf0
      rep := { s.rep with err := .outOfMemory }
      cmd := { s.cmd with op := .none, cpc := 0#32 }
      env := { s.env with allocs := rest } } := by
  rw [exec_init_at h, initMicro, initI2, alloc_of_fail ha]
  rfl

/-- I2 with an allowed answer decided on: buffer 1 (43 R185). -/
theorem exec_init_I2 {s : State} {a : Word} {rest : List (Option Word)} (h : AtMicroStep .init 2 s)
    (ha : s.env.allocs = some a :: rest) (hok : AllocAllows s.par s.live (4 * s.stage.count.toNat) a) :
    exec .init s = .next { s with
      ses := { s.ses with buf1 := a }
      live := { base := a, size := 4 * s.stage.count.toNat } :: s.live
      cmd := { s.cmd with cpc := 3#32 }
      env := { s.env with allocs := rest } } := by
  rw [exec_init_at h, initMicro, initI2, alloc_of_allowed ha hok]
  rfl

/-- I3 stores the memory that the zero fill answers (43 R185). -/
theorem exec_init_I3 {s : State} {m : Memory} (h : AtMicroStep .init 3 s)
    (hm : zeroFill s.par s.ses.buf0 s.ses.buf1 s.stage.count.toNat s.mem = some m) :
    exec .init s = .next { s with mem := m, cmd := { s.cmd with cpc := 4#32 } } := by
  rw [exec_init_at h, initMicro, initI3, hm]
  rfl

/-- I4 latches the configuration (43 R185). -/
theorem exec_init_I4 {s : State} (h : AtMicroStep .init 4 s) :
    exec .init s = .next { s with
      cfg := { unit := s.stage.unit, dpin := s.stage.dpin, cpin := s.stage.cpin, wspin := s.stage.cpin + 1#32,
               freq := s.stage.freq, n := s.stage.count }
      cmd := { s.cmd with cpc := 5#32 } } :=
  exec_init_at h

/-- I5 claims the engine (43 R185). -/
theorem exec_init_I5 {s : State} (h : AtMicroStep .init 5 s) :
    exec .init s = .next { s with
      te := { busy := false, waddr := 0#32, remain := 0#32, reload := 0#32 }
      cmd := { s.cmd with cpc := 6#32 } } :=
  exec_init_at h

/-- I6 enables the interrupt (43 R185). -/
theorem exec_init_I6 {s : State} (h : AtMicroStep .init 6 s) :
    exec .init s = .next { s with irq := { s.irq with en := true }, cmd := { s.cmd with cpc := 7#32 } } :=
  exec_init_at h

/-- I7 makes the session ready and ends (43 R185). -/
theorem exec_init_I7 {s : State} (h : AtMicroStep .init 7 s) :
    exec .init s = .next { s with
      ses := { s.ses with active := false, sess := .ready }
      rep := { s.rep with swapcnt := 0#32, err := .ok }
      cmd := { s.cmd with op := .none, cpc := 0#32 } } :=
  exec_init_at h

/-- Settles O19: the nine outcomes of I1 to I7, with the zero fill of two regions at I3. -/
theorem initMicroSteps : Obligations.InitMicroSteps := by
  intro s rest
  refine ⟨exec_init_I1_fail, fun a => exec_init_I1, exec_init_I2_fail, fun a => exec_init_I2, fun h h0 h1 => ?fill,
    exec_init_I4, exec_init_I5, exec_init_I6, exec_init_I7⟩
  case fill =>
    obtain ⟨m, hm, hzero, hout⟩ := exists_zeroFill h0 h1 s.mem
    exact ⟨m, exec_init_I3 h hm, hzero, hout⟩

/-! ## A whole INIT -/

/-- INIT with legal parameters, begun and past its checks, is about to take I1 (43 R185). -/
theorem execTimes_init_to_I1 {s : State} (hs : HostMayAct s) (hu : s.ses.sess = .uninit)
    (hl : InitLegal s.par s.stage) (n : Nat) :
    execTimes .init (n + 2) s =
      execTimes .init n { s with cmd := { s.cmd with op := .init, b := false, cpc := 1#32 } } := by
  obtain ⟨hf, hh, hc⟩ := id hs
  have started : AtMicroStep .init 0 (startCommand .init false s) := ⟨hf, hh, rfl, rfl⟩
  refine execTimes_succ (exec_of_command hs rfl) ?_
  exact execTimes_succ ((exec_init_at started).trans (checkStep_none (initCause_of_legal hu hl) 1)) rfl

/-- An allowed answer is a region. -/
theorem regionOk_of_allocAllows {p : Params} {live : List Region} {n : Nat} {a : Word}
    (h : AllocAllows p live (4 * n) a) : RegionOk p a n :=
  regionOk_of_allocOk (allocOk_iff.2 h)

/-- Settles O20: the micro-steps one after the other, with the zero fill of the two allocated regions. -/
theorem initGivesReadySession : Obligations.InitGivesReadySession := by
  intro s a0 a1 rest hs hu hl ha hok0 hok1
  obtain ⟨m, hm, hzero, hout⟩ := exists_zeroFill (regionOk_of_allocAllows hok0) (regionOk_of_allocAllows hok1) s.mem
  refine ⟨m, ?_, hzero, hout⟩
  obtain ⟨hf, hh, hc⟩ := id hs
  rw [execTimes_init_to_I1 hs hu hl]
  refine execTimes_succ (exec_init_I1 ⟨hf, hh, rfl, rfl⟩ ha hok0) ?_
  refine execTimes_succ (exec_init_I2 ⟨hf, hh, rfl, rfl⟩ rfl hok1) ?_
  refine execTimes_succ (exec_init_I3 ⟨hf, hh, rfl, rfl⟩ hm) ?_
  refine execTimes_succ (exec_init_I4 ⟨hf, hh, rfl, rfl⟩) ?_
  refine execTimes_succ (exec_init_I5 ⟨hf, hh, rfl, rfl⟩) ?_
  refine execTimes_succ (exec_init_I6 ⟨hf, hh, rfl, rfl⟩) ?_
  exact execTimes_succ (exec_init_I7 ⟨hf, hh, rfl, rfl⟩) rfl

/-- Releasing a region that has just been allocated leaves the other live regions. -/
theorem free_allocated {p : Params} {live : List Region} {n : Nat} {a : Word} (h : AllocAllows p live n a)
    (hn : 1 ≤ n) (hlive : ∀ r ∈ live, 4 ≤ r.size) :
    (({ base := a, size := n } :: live).filter fun r => r.base ≠ a) = live := by
  obtain ⟨-, -, -, -, hdisj⟩ := h
  have hne : ∀ r ∈ live, r.base ≠ a := by
    rintro r hr rfl
    have := hdisj r hr
    have := hlive r hr
    omega
  simpa using hne

/-- Settles O21: I1 fails, or I2 does and releases what I1 has allocated. -/
theorem initOutOfMemory : Obligations.InitOutOfMemory := by
  intro s rest hs hu hl s'
  obtain ⟨hf, hh, hc⟩ := id hs
  refine ⟨fun ha => ?first, fun a0 ha hok h0 hlive => ?second⟩
  case first =>
    rw [execTimes_init_to_I1 hs hu hl]
    exact execTimes_succ (exec_init_I1_fail ⟨hf, hh, rfl, rfl⟩ ha) rfl
  case second =>
    have hcount : 1 ≤ 4 * s.stage.count.toNat := by
      have := hl.1
      omega
    rw [execTimes_init_to_I1 hs hu hl]
    refine execTimes_succ (exec_init_I1 ⟨hf, hh, rfl, rfl⟩ ha hok) ?_
    refine execTimes_succ (exec_init_I2_fail ⟨hf, hh, rfl, rfl⟩ rfl) ?_
    rw [execTimes, free_allocated hok hcount hlive]
    simp [s', ← h0]

end Sys2Proof.Proofs
end

section
/-! SUPPORT. START, STOP and GETBUF (spec/43_controller_commands.md rules R188 to R194): their micro-steps, and each whole
command with no step of another agent between. -/

namespace Sys2Proof.Proofs

open Sys2Proof Sys2Proof.Machine Sys2Proof.Laws

/-! ## START -/

/-- S0 in a ready session goes on (43 R188). -/
theorem exec_start_S0 {s : State} (h : AtMicroStep .start 0 s) (hr : s.ses.sess = .ready) :
    exec .start s = .next { s with cmd := { s.cmd with cpc := 1#32 } } :=
  (exec_start_at h).trans (checkStep_none (by rw [startCause, hr]) 1)

/-- S1 makes the session active (43 R188). -/
theorem exec_start_S1 {s : State} (h : AtMicroStep .start 1 s) :
    exec .start s = .next { s with
      ses := { s.ses with active := false, sess := .active }
      rep := { s.rep with swapcnt := 0#32 }
      cmd := { s.cmd with cpc := 2#32 } } :=
  exec_start_at h

/-- S2 arms an idle engine with the whole of buffer 0 (43 R188). -/
theorem exec_start_S2 {s : State} (h : AtMicroStep .start 2 s) (hb : s.te.busy = false) :
    exec .start s = .next { s with
      te := { busy := true, waddr := s.ses.buf0, remain := s.cfg.n, reload := s.cfg.n }
      cmd := { s.cmd with cpc := 3#32 } } := by
  rw [exec_start_at_S2 h, startS2, teArm_of_idle hb]
  rfl

/-- S3 clears the queue and restarts the SAU (43 R188). -/
theorem exec_start_S3 {s : State} (h : AtMicroStep .start 3 s) :
    exec .start s = .next { s with
      sau := { s.sau with rxq := [], phase := false }
      cmd := { s.cmd with cpc := 4#32 } } :=
  exec_start_at h

/-- S4 enables the SAU and ends (43 R188). -/
theorem exec_start_S4 {s : State} (h : AtMicroStep .start 4 s) :
    exec .start s = .next { s with
      sau := { s.sau with en := true }
      rep := { s.rep with err := .ok }
      cmd := { s.cmd with op := .none, cpc := 0#32 } } :=
  exec_start_at h

/-- Settles O22: the checks of S0, then S1 to S4. -/
theorem startMicroSteps : Obligations.StartMicroSteps := fun s =>
  ⟨fun h hs => (exec_start_at h).trans (checkStep_some h.1 (by rw [startCause, hs]) 1),
    fun h hs => (exec_start_at h).trans (checkStep_some h.1 (by rw [startCause, hs]) 1),
    exec_start_S0, exec_start_S1, exec_start_S2, fun h hb => exec_start_of_busy hb h, exec_start_S3, exec_start_S4⟩

/-- Settles O23: the command begins, its check passes, and S1 to S4 follow; a busy engine stops it at S2. -/
theorem startArmsFirstTransfer : Obligations.StartArmsFirstTransfer := by
  intro s hs hr
  obtain ⟨hf, hh, hc⟩ := id hs
  have to_S2 : ∀ n, execTimes .start (n + 3) s = execTimes .start n { s with
      ses := { s.ses with active := false, sess := .active }
      rep := { s.rep with swapcnt := 0#32 }
      cmd := { s.cmd with op := .start, b := false, cpc := 2#32 } } := by
    intro n
    refine execTimes_succ (exec_of_command hs rfl) ?_
    refine execTimes_succ (exec_start_S0 ⟨hf, hh, rfl, rfl⟩ hr) ?_
    exact execTimes_succ (exec_start_S1 ⟨hf, hh, rfl, rfl⟩) rfl
  refine ⟨fun hb => ?idle, fun hb => ?busy⟩
  case idle =>
    rw [to_S2]
    refine execTimes_succ (exec_start_S2 ⟨hf, hh, rfl, rfl⟩ hb) ?_
    refine execTimes_succ (exec_start_S3 ⟨hf, hh, rfl, rfl⟩) ?_
    exact execTimes_succ (exec_start_S4 ⟨hf, hh, rfl, rfl⟩) rfl
  case busy =>
    rw [to_S2]
    exact execTimes_succ (exec_start_of_busy hb ⟨hf, hh, rfl, rfl⟩) rfl

/-! ## STOP -/

/-- T0 in an active session goes on (43 R191). -/
theorem exec_stop_T0 {s : State} (h : AtMicroStep .stop 0 s) (ha : s.ses.sess = .active) :
    exec .stop s = .next { s with cmd := { s.cmd with cpc := 1#32 } } :=
  (exec_stop_at h).trans (checkStep_none (by rw [stopCause, ha]) 1)

/-- T1 disables the SAU (43 R191). -/
theorem exec_stop_T1 {s : State} (h : AtMicroStep .stop 1 s) :
    exec .stop s = .next { s with sau := { s.sau with en := false }, cmd := { s.cmd with cpc := 2#32 } } :=
  exec_stop_at h

/-- T2 aborts the transfer and ends (43 R191). -/
theorem exec_stop_T2 {s : State} (h : AtMicroStep .stop 2 s) :
    exec .stop s = .next { s with
      te := { s.te with busy := false }
      ses := { s.ses with sess := .ready }
      rep := { s.rep with err := .ok }
      cmd := { s.cmd with op := .none, cpc := 0#32 } } :=
  exec_stop_at h

/-- Settles O24: the checks of T0, T1 and T2, and the whole command. -/
theorem stopEndsSession : Obligations.StopEndsSession := by
  intro s
  refine ⟨fun h hs => ?uninit, fun h hs => ?ready, exec_stop_T0, exec_stop_T1, exec_stop_T2, fun hs ha => ?whole⟩
  case uninit => exact (exec_stop_at h).trans (checkStep_some h.1 (by rw [stopCause, hs]) 1)
  case ready => exact (exec_stop_at h).trans (checkStep_some h.1 (by rw [stopCause, hs]) 1)
  case whole =>
    obtain ⟨hf, hh, hc⟩ := id hs
    refine execTimes_succ (exec_of_command hs rfl) ?_
    refine execTimes_succ (exec_stop_T0 ⟨hf, hh, rfl, rfl⟩ ha) ?_
    refine execTimes_succ (exec_stop_T1 ⟨hf, hh, rfl, rfl⟩) ?_
    exact execTimes_succ (exec_stop_T2 ⟨hf, hh, rfl, rfl⟩) rfl

/-! ## GETBUF -/

/-- G0 of the non-blocking form goes on to G3 in every session (43 R194). -/
theorem exec_getbuf_G0 {s : State} (h : AtMicroStep .getbuf 0 s) (hb : s.cmd.b = false)
    (hs : s.ses.sess ≠ .uninit) : exec (.getbuf false) s = .next { s with cmd := { s.cmd with cpc := 3#32 } } := by
  have hentry : getbufG0 s = checkStep (getbufCause s) 3 s := by rw [getbufG0, hb]; rfl
  exact (exec_getbuf_at h hb).trans (hentry.trans (checkStep_none (if_neg hs) 3))

/-- G2 waits for `active` to differ from what G1 has recorded (43 R194, log 12). -/
theorem exec_getbuf_G2 {s : State} {b : Bool} (h : AtMicroStep .getbuf 2 s) (hb : s.cmd.b = b) :
    exec (.getbuf b) s =
      if s.ses.active = s.cmd.gbA0 then .next s else .next { s with cmd := { s.cmd with cpc := 3#32 } } :=
  exec_getbuf_at h hb

/-- G3 returns the stable buffer and clears the swap count (43 R194). -/
theorem exec_getbuf_G3 {s : State} {b : Bool} (h : AtMicroStep .getbuf 3 s) (hb : s.cmd.b = b) :
    exec (.getbuf b) s = .next { s with
      rep := { swapcnt := 0#32, err := .ok, result := if s.ses.active = true then s.ses.buf0 else s.ses.buf1 }
      cmd := { s.cmd with op := .none, cpc := 0#32 } } := by
  have hstable : s.ses.buf (!s.ses.active) = if s.ses.active = true then s.ses.buf0 else s.ses.buf1 := by
    cases s.ses.active <;> rfl
  rw [exec_getbuf_at h hb, getbufMicro, getbufG3, hstable]
  rfl

/-- Settles O25: G1 to G3, and the non-blocking form from its CMD write to G3. -/
theorem getbufReturnsStableBuffer : Obligations.GetbufReturnsStableBuffer := by
  intro s b
  refine ⟨fun h hb => exec_getbuf_at h hb, exec_getbuf_G2, exec_getbuf_G3, fun hs hsess => ?_⟩
  obtain ⟨hf, hh, hc⟩ := id hs
  refine execTimes_succ (exec_of_command hs rfl) ?_
  refine execTimes_succ (exec_getbuf_G0 ⟨hf, hh, rfl, rfl⟩ rfl hsess) ?_
  exact execTimes_succ (exec_getbuf_G3 ⟨hf, hh, rfl, rfl⟩ rfl) rfl

end Sys2Proof.Proofs
end

section
/-! SUPPORT. RECORD (spec/43_controller_commands.md rule R198): its micro-steps, and a whole RECORD that stores words
already in the queue (spec/70_reset_and_hazards.md rule R292). -/

namespace Sys2Proof.Proofs

open Sys2Proof Sys2Proof.Machine Sys2Proof.Laws

/-! ## The micro-steps -/

/-- K0 in a ready session goes on (43 R198). -/
theorem exec_record_K0 {s : State} (h : AtMicroStep .record 0 s) (hr : s.ses.sess = .ready) :
    exec .record s = .next { s with cmd := { s.cmd with cpc := 1#32 } } :=
  (exec_record_at h).trans (checkStep_none (by rw [recordCause, hr]) 1)

/-- K1 restarts and enables the SAU, and empties the queue if the parameter says so (43 R198). -/
theorem recordK1_eq (s : State) :
    recordK1 s = .next { s with
      sau := { s.sau with en := true, phase := false
                          rxq := if s.par.recordClearsRxq = true then [] else s.sau.rxq }
      cmd := { s.cmd with recK := 0#32, cpc := 2#32 } } := by
  unfold recordK1
  cases hclear : s.par.recordClearsRxq <;> rfl

/-- K1 as an application step (43 R198). -/
theorem exec_record_K1 {s : State} (h : AtMicroStep .record 1 s) :
    exec .record s = .next { s with
      sau := { s.sau with en := true, phase := false
                          rxq := if s.par.recordClearsRxq = true then [] else s.sau.rxq }
      cmd := { s.cmd with recK := 0#32, cpc := 2#32 } } := by
  rw [exec_record_at h, recordMicro, recordK1_eq]

/-- K2 on an empty queue changes nothing (log 12). -/
theorem exec_record_K2_empty {s : State} (h : AtMicroStep .record 2 s) (hq : s.sau.rxq = []) :
    exec .record s = .next s := by
  have hpop : sauPop s = none := by simp [sauPop, hq]
  rw [exec_record_at h, recordMicro, recordK2, hpop]

/-- The count after a word is stored does not wrap below `cfg.n`. -/
theorem toNat_add_one_of_lt {k n : Word} (h : k.toNat < n.toNat) : (k + 1#32).toNat = k.toNat + 1 := by
  have := n.isLt
  rw [BitVec.toNat_add]
  exact Nat.mod_eq_of_lt (by simp; omega)

/-- K2 moves the head of the queue to word `rec_k` of buffer 0 (43 R198). -/
theorem exec_record_K2 {s : State} {w : Word} {ws : List Word} {m : Memory} (h : AtMicroStep .record 2 s)
    (hq : s.sau.rxq = w :: ws) (hk : s.cmd.recK.toNat < s.cfg.n.toNat)
    (hm : memWrite s.par s.mem (wordAddr s.ses.buf0 s.cmd.recK.toNat) .w4 w = some m) :
    exec .record s = .next { s with
      sau := { s.sau with rxq := ws }
      mem := m
      cmd := { s.cmd with
        recK := s.cmd.recK + 1#32
        cpc := if s.cmd.recK.toNat + 1 < s.cfg.n.toNat then 2#32 else 3#32 } } := by
  rw [exec_record_at h, recordMicro, recordK2, sauPop_eq_some.2 ⟨ws, hq, rfl⟩]
  simp only [setSau_par, setSau_mem, setSau_ses, setSau_cmd, setSau_cfg, hm, recordNext, toNat_add_one_of_lt hk, goTo]
  split <;> rfl

/-- K3 disables the SAU and returns buffer 0 (43 R198). -/
theorem exec_record_K3 {s : State} (h : AtMicroStep .record 3 s) :
    exec .record s = .next { s with
      sau := { s.sau with en := false }
      rep := { s.rep with result := s.ses.buf0, err := .ok }
      cmd := { s.cmd with op := .none, cpc := 0#32 } } :=
  exec_record_at h

/-- A write of word `k` of a region: it succeeds, holds the word, and changes no other byte. -/
theorem exists_memWrite_word {p : Params} {a : Word} {n k : Nat} (h : RegionOk p a n) (hk : k < n) (m : Memory)
    (v : Word) :
    ∃ m', memWrite p m (wordAddr a k) .w4 v = some m' ∧ HoldsWord m' (a.toNat + 4 * k) v ∧
      SameOutside m m' (a.toNat + 4 * k) 4 := by
  have hm := memWrite_word h hk m v
  rw [← wordAddr_toNat h hk]
  exact ⟨_, hm, holdsWord_of_memWrite hm, sameOutside_of_memWrite hm⟩

/-- Settles O26: K1, K2 on an empty and on a filled queue, and K3. -/
theorem recordMicroSteps : Obligations.RecordMicroSteps := by
  intro s
  refine ⟨exec_record_K1, exec_record_K2_empty, fun w ws h hq hreg hk => ?_, exec_record_K3⟩
  obtain ⟨m, hm, hold, hout⟩ := exists_memWrite_word hreg hk s.mem w
  exact ⟨m, exec_record_K2 h hq hk hm, hold, hout⟩

/-! ## Words stored in order -/

/-- `d` words of the queue `q` stand from `a` on, and every other byte is as in `m`. -/
def StoredFrom (m m' : Memory) (a : Nat) (q : List Word) (d : Nat) : Prop :=
  (∀ j w, j < d → q[j]? = some w → HoldsWord m' (a + 4 * j) w) ∧ SameOutside m m' a (4 * d)

/-- No word is stored. -/
theorem storedFrom_zero (m : Memory) (a : Nat) (q : List Word) : StoredFrom m m a q 0 :=
  ⟨nofun, fun _ _ => rfl⟩

/-- What a memory holds at an address it holds in every memory that agrees there. -/
theorem HoldsWord.of_sameOutside {m m' : Memory} {a b n : Nat} {w : Word} (h : HoldsWord m a w)
    (hs : SameOutside m m' b n) (hab : a + 4 ≤ b ∨ b + n ≤ a) : HoldsWord m' a w := by
  intro i hi
  rw [hs (a + i) (by omega), h i hi]

/-- The head of the queue at the first word, the rest from the next word on. -/
theorem StoredFrom.cons {m m1 m' : Memory} {a d : Nat} {w : Word} {ws : List Word} (hw : HoldsWord m1 a w)
    (hs : SameOutside m m1 a 4) (h : StoredFrom m1 m' (a + 4) ws d) : StoredFrom m m' a (w :: ws) (d + 1) := by
  obtain ⟨hrest, hout⟩ := h
  refine ⟨fun j v hj hv => ?_, fun x hx => ?_⟩
  · cases j with
    | zero =>
      cases hv
      exact HoldsWord.of_sameOutside hw hout (.inl le_rfl)
    | succ j =>
      have := hrest j v (by omega) hv
      rwa [show a + 4 + 4 * j = a + 4 * (j + 1) by omega] at this
  · rw [hout x (by omega), hs x (by omega)]

/-! ## A whole RECORD -/

/-- RECORD is storing words: at K2 with words still to store, at K3 with none (43 R198). -/
def StoringWords (s : State) : Prop :=
  s.flt.fault = false ∧ s.ch.inHandler = false ∧ s.cmd.op = .record ∧
    s.cmd.cpc = if s.cmd.recK.toNat < s.cfg.n.toNat then 2#32 else 3#32

/-- While it has a word to store, RECORD is at K2. -/
theorem StoringWords.at_K2 {s : State} (h : StoringWords s) (hk : s.cmd.recK.toNat < s.cfg.n.toNat) :
    AtMicroStep .record 2 s := by
  obtain ⟨hf, hh, hop, hc⟩ := h
  exact ⟨hf, hh, hop, by rw [hc, if_pos hk]; rfl⟩

/-- With `d` words to go and `d` words in the queue, `d` application steps store them and reach K3. -/
theorem execTimes_record_stores (d : Nat) {s : State} (h : StoringWords s)
    (hreg : RegionOk s.par s.ses.buf0 s.cfg.n.toNat) (hd : s.cmd.recK.toNat + d = s.cfg.n.toNat)
    (hq : d ≤ s.sau.rxq.length) :
    ∃ m, execTimes .record d s = .next { s with
        sau := { s.sau with rxq := s.sau.rxq.drop d }
        mem := m
        cmd := { s.cmd with recK := s.cfg.n, cpc := 3#32 } } ∧
      StoredFrom s.mem m (s.ses.buf0.toNat + 4 * s.cmd.recK.toNat) s.sau.rxq d := by
  induction d generalizing s with
  | zero =>
    have hn : s.cfg.n = s.cmd.recK := BitVec.toNat_inj.1 hd.symm
    obtain ⟨-, -, -, hcpc⟩ := h
    have hc : 3#32 = s.cmd.cpc := by rw [hcpc, hn, if_neg (lt_irrefl _)]
    refine ⟨s.mem, ?_, storedFrom_zero _ _ _⟩
    rw [hn, hc]
    rfl
  | succ d ih =>
    obtain ⟨w, ws, hws⟩ : ∃ w ws, s.sau.rxq = w :: ws := List.exists_cons_of_length_pos (by omega)
    have hk : s.cmd.recK.toNat < s.cfg.n.toNat := by omega
    have hk1 := toNat_add_one_of_lt hk
    obtain ⟨m1, hm1, hold, hout⟩ := exists_memWrite_word hreg hk s.mem w
    have hstep := exec_record_K2 (h.at_K2 hk) hws hk hm1
    rw [hws] at hq ⊢
    obtain ⟨hf, hh, hop, -⟩ := h
    obtain ⟨m, hm, hstored⟩ := ih (s := { s with
      sau := { s.sau with rxq := ws }
      mem := m1
      cmd := { s.cmd with
        recK := s.cmd.recK + 1#32
        cpc := if s.cmd.recK.toNat + 1 < s.cfg.n.toNat then 2#32 else 3#32 } })
      ⟨hf, hh, hop, by simp only [hk1]⟩ hreg (by simp only [hk1]; omega) (by simpa using hq)
    simp only [hk1] at hstored
    exact ⟨m, execTimes_succ hstep hm, StoredFrom.cons hold hout (by rwa [Nat.add_assoc, ← Nat.mul_succ])⟩

/-- RECORD, begun in a ready session and past K1, has `cfg.n` words to store. -/
theorem execTimes_record_to_K2 {s : State} (hs : HostMayAct s) (hr : s.ses.sess = .ready)
    (hclear : s.par.recordClearsRxq = false) (n : Nat) :
    execTimes .record (n + 3) s = execTimes .record n { s with
      sau := { s.sau with en := true, phase := false }
      cmd := { s.cmd with op := .record, b := false, recK := 0#32, cpc := 2#32 } } := by
  obtain ⟨hf, hh, hc⟩ := id hs
  refine execTimes_succ (exec_of_command hs rfl) ?_
  refine execTimes_succ (exec_record_K0 ⟨hf, hh, rfl, rfl⟩ hr) ?_
  refine execTimes_succ (exec_record_K1 ⟨hf, hh, rfl, rfl⟩) ?_
  simp [hclear, startCommand, State.setCmd]

/-- One uninterrupted stretch of application steps after another. -/
theorem execTimes_add {i : Instr} {s t : State} {o : Out} (n k : Nat) (h : execTimes i n s = .next t)
    (hrest : execTimes i k t = o) : execTimes i (n + k) s = o := by
  induction n generalizing s with
  | zero =>
    cases h
    rwa [Nat.zero_add]
  | succ n ih =>
    rw [Nat.add_right_comm]
    simp only [execTimes] at h ⊢
    split at h
    · exact ih h
    · next hne => exact absurd h (hne t)

/-- Settles O27: K2 stores the words one after the other, between K1 and K3. -/
theorem recordStoresQueuedWords : Obligations.RecordStoresQueuedWords := by
  intro s hs hr hclear hn hreg hlen
  obtain ⟨hf, hh, hc⟩ := id hs
  obtain ⟨m, hm, hstored, hout⟩ := execTimes_record_stores s.cfg.n.toNat (s := { s with
      sau := { s.sau with en := true, phase := false }
      cmd := { s.cmd with op := .record, b := false, recK := 0#32, cpc := 2#32 } })
    ⟨hf, hh, rfl, (if_pos hn).symm⟩ hreg (Nat.zero_add _) hlen
  refine ⟨m, ?_, hstored, hout⟩
  rw [show s.cfg.n.toNat + 4 = s.cfg.n.toNat + 1 + 3 from rfl, execTimes_record_to_K2 hs hr hclear]
  exact execTimes_add _ 1 hm (execTimes_succ (exec_record_K3 ⟨hf, hh, rfl, rfl⟩) rfl)

end Sys2Proof.Proofs
end

section
/-! SUPPORT. All that each command's micro-step can do when it answers a next state (spec/43_controller_commands.md
rules R185 to R198), and from it the frames of the commands (rule R200). -/

namespace Sys2Proof.Proofs

open Sys2Proof Sys2Proof.Machine Sys2Proof.Laws

/-! ## The outcomes of the micro-steps -/

/-- All that INIT can do at its micro-step `k` (43 R185). -/
inductive InitStep (s : State) (k : Nat) : State → Prop
  | rejected {c : Cause} (hk : k = 0) (hc : initCause s = some c) : InitStep s k (takeFault c s)
  | accepted (hk : k = 0) (hc : initCause s = none) : InitStep s k { s with cmd := { s.cmd with cpc := 1#32 } }
  | noBuf0 (as : List (Option Word)) (d : Nat) (hk : k = 1) : InitStep s k { s with
      rep := { s.rep with err := .outOfMemory }
      cmd := { s.cmd with op := .none, cpc := 0#32 }
      env := { s.env with allocs := as, drawn := d } }
  | buf0 (as : List (Option Word)) (d : Nat) (a : Word) (hk : k = 1)
      (ha : AllocAllows s.par s.live (4 * s.stage.count.toNat) a) : InitStep s k { s with
      ses := { s.ses with buf0 := a }
      live := { base := a, size := 4 * s.stage.count.toNat } :: s.live
      cmd := { s.cmd with cpc := 2#32 }
      env := { s.env with allocs := as, drawn := d } }
  | noBuf1 (as : List (Option Word)) (d : Nat) (hk : k = 2) : InitStep s k { s with
      ses := { s.ses with buf0 := 0#32 }
      live := s.live.filter fun r => r.base ≠ s.ses.buf0
      rep := { s.rep with err := .outOfMemory }
      cmd := { s.cmd with op := .none, cpc := 0#32 }
      env := { s.env with allocs := as, drawn := d } }
  | buf1 (as : List (Option Word)) (d : Nat) (a : Word) (hk : k = 2)
      (ha : AllocAllows s.par s.live (4 * s.stage.count.toNat) a) : InitStep s k { s with
      ses := { s.ses with buf1 := a }
      live := { base := a, size := 4 * s.stage.count.toNat } :: s.live
      cmd := { s.cmd with cpc := 3#32 }
      env := { s.env with allocs := as, drawn := d } }
  | fill (m : Memory) (hk : k = 3) (hm : zeroFill s.par s.ses.buf0 s.ses.buf1 s.stage.count.toNat s.mem = some m) :
      InitStep s k { s with mem := m, cmd := { s.cmd with cpc := 4#32 } }
  | latch (hk : k = 4) : InitStep s k { s with
      cfg := { unit := s.stage.unit, dpin := s.stage.dpin, cpin := s.stage.cpin, wspin := s.stage.cpin + 1#32,
               freq := s.stage.freq, n := s.stage.count }
      cmd := { s.cmd with cpc := 5#32 } }
  | claim (hk : k = 5) : InitStep s k { s with
      te := { busy := false, waddr := 0#32, remain := 0#32, reload := 0#32 }
      cmd := { s.cmd with cpc := 6#32 } }
  | enable (hk : k = 6) : InitStep s k { s with
      irq := { s.irq with en := true }
      cmd := { s.cmd with cpc := 7#32 } }
  | ready (hk : k = 7) : InitStep s k { s with
      ses := { s.ses with active := false, sess := .ready }
      rep := { s.rep with swapcnt := 0#32, err := .ok }
      cmd := { s.cmd with op := .none, cpc := 0#32 } }

/-- All that START can do at its micro-step `k` (43 R188). -/
inductive StartStep (s : State) (k : Nat) : State → Prop
  | rejected {c : Cause} (hk : k = 0) (hc : startCause s = some c) : StartStep s k (takeFault c s)
  | accepted (hk : k = 0) (hs : s.ses.sess = .ready) : StartStep s k { s with cmd := { s.cmd with cpc := 1#32 } }
  | activate (hk : k = 1) : StartStep s k { s with
      ses := { s.ses with active := false, sess := .active }
      rep := { s.rep with swapcnt := 0#32 }
      cmd := { s.cmd with cpc := 2#32 } }
  | misuse (hk : k = 2) (hb : s.te.busy = true) : StartStep s k (takeFault .teMisuse s)
  | arm (hk : k = 2) (hb : s.te.busy = false) : StartStep s k { s with
      te := { busy := true, waddr := s.ses.buf0, remain := s.cfg.n, reload := s.cfg.n }
      cmd := { s.cmd with cpc := 3#32 } }
  | restart (hk : k = 3) : StartStep s k { s with
      sau := { s.sau with rxq := [], phase := false }
      cmd := { s.cmd with cpc := 4#32 } }
  | enable (hk : k = 4) : StartStep s k { s with
      sau := { s.sau with en := true }
      rep := { s.rep with err := .ok }
      cmd := { s.cmd with op := .none, cpc := 0#32 } }

/-- All that STOP can do at its micro-step `k` (43 R191). -/
inductive StopStep (s : State) (k : Nat) : State → Prop
  | rejected {c : Cause} (hk : k = 0) (hc : stopCause s = some c) : StopStep s k (takeFault c s)
  | accepted (hk : k = 0) (hs : s.ses.sess = .active) : StopStep s k { s with cmd := { s.cmd with cpc := 1#32 } }
  | disable (hk : k = 1) : StopStep s k { s with
      sau := { s.sau with en := false }
      cmd := { s.cmd with cpc := 2#32 } }
  | abort (hk : k = 2) : StopStep s k { s with
      te := { s.te with busy := false }
      ses := { s.ses with sess := .ready }
      rep := { s.rep with err := .ok }
      cmd := { s.cmd with op := .none, cpc := 0#32 } }

/-- All that GETBUF can do at its micro-step `k` (43 R194). -/
inductive GetbufStep (s : State) (k : Nat) : State → Prop
  | rejected {c : Cause} (hk : k = 0) (hc : getbufCause s = some c) : GetbufStep s k (takeFault c s)
  | accepted (hk : k = 0) (hs : s.ses.sess ≠ .uninit) : GetbufStep s k { s with
      cmd := { s.cmd with cpc := BitVec.ofNat 32 (getbufEntry s.cmd.b) } }
  | snapshot (hk : k = 1) : GetbufStep s k { s with cmd := { s.cmd with gbA0 := s.ses.active, cpc := 2#32 } }
  | wait (hk : k = 2) (ha : s.ses.active = s.cmd.gbA0) : GetbufStep s k s
  | proceed (hk : k = 2) (ha : s.ses.active ≠ s.cmd.gbA0) : GetbufStep s k { s with
      cmd := { s.cmd with cpc := 3#32 } }
  | answer (hk : k = 3) : GetbufStep s k { s with
      rep := { swapcnt := 0#32, err := .ok, result := s.ses.buf (!s.ses.active) }
      cmd := { s.cmd with op := .none, cpc := 0#32 } }

/-- All that RECORD can do at its micro-step `k` (43 R198). -/
inductive RecordStep (s : State) (k : Nat) : State → Prop
  | rejected {c : Cause} (hk : k = 0) (hc : recordCause s = some c) : RecordStep s k (takeFault c s)
  | accepted (hk : k = 0) (hs : s.ses.sess = .ready) : RecordStep s k { s with cmd := { s.cmd with cpc := 1#32 } }
  | restart (hk : k = 1) : RecordStep s k { s with
      sau := { s.sau with en := true, phase := false
                          rxq := if s.par.recordClearsRxq = true then [] else s.sau.rxq }
      cmd := { s.cmd with recK := 0#32, cpc := 2#32 } }
  | wait (hk : k = 2) (hq : s.sau.rxq = []) : RecordStep s k s
  | store {w : Word} {ws : List Word} (m : Memory) (hk : k = 2) (hq : s.sau.rxq = w :: ws)
      (hm : memWrite s.par s.mem (wordAddr s.ses.buf0 s.cmd.recK.toNat) .w4 w = some m) : RecordStep s k { s with
      sau := { s.sau with rxq := ws }
      mem := m
      cmd := { s.cmd with
        recK := s.cmd.recK + 1#32
        cpc := BitVec.ofNat 32 (recordNext (s.cmd.recK + 1#32) s.cfg.n) } }
  | finish (hk : k = 3) : RecordStep s k { s with
      sau := { s.sau with en := false }
      rep := { s.rep with result := s.ses.buf0, err := .ok }
      cmd := { s.cmd with op := .none, cpc := 0#32 } }

/-! ## Every micro-step has one of these outcomes -/

/-- A check step's two outcomes, each shown to be one of the command's. -/
theorem of_checkStep_next {P : State → Prop} {cause : Option Cause} {k : Nat} {s t : State}
    (h : checkStep cause k s = .next t) (hsome : ∀ c, cause = some c → P (takeFault c s))
    (hnone : cause = none → P (goTo k s)) : P t := by
  obtain ⟨c, hc, he⟩ | ⟨hc, he⟩ := checkStep_cases cause k s
  · rw [he] at h; cases h; exact hsome c hc
  · rw [he] at h; cases h; exact hnone hc

theorem startCause_eq_none {s : State} (h : startCause s = none) : s.ses.sess = .ready := by
  unfold startCause at h
  cases hs : s.ses.sess <;> simp_all

theorem stopCause_eq_none {s : State} (h : stopCause s = none) : s.ses.sess = .active := by
  unfold stopCause at h
  cases hs : s.ses.sess <;> simp_all

theorem getbufCause_eq_none {s : State} (h : getbufCause s = none) : s.ses.sess ≠ .uninit := by
  unfold getbufCause at h
  split at h
  · cases h
  · assumption

theorem recordCause_eq_none {s : State} (h : recordCause s = none) : s.ses.sess = .ready := by
  unfold recordCause at h
  cases hs : s.ses.sess <;> simp_all

theorem initStep_of_next {s t : State} {k : Nat} (h : initMicro k s = .next t) : InitStep s k t := by
  unfold initMicro at h
  split at h
  · exact of_checkStep_next h (fun c => .rejected rfl) (.accepted rfl)
  · obtain ⟨as, d, he | ⟨a, he, ha⟩⟩ := alloc_cases (4 * s.stage.count.toNat) s
    · rw [initI1, he] at h; cases h; exact .noBuf0 as d rfl
    · rw [initI1, he] at h; cases h; exact .buf0 as d a rfl (allocOk_iff.1 ha)
  · obtain ⟨as, d, he | ⟨a, he, ha⟩⟩ := alloc_cases (4 * s.stage.count.toNat) s
    · rw [initI2, he] at h; cases h; exact .noBuf1 as d rfl
    · rw [initI2, he] at h; cases h; exact .buf1 as d a rfl (allocOk_iff.1 ha)
  · unfold initI3 at h
    split at h <;> cases h
    next m hm => exact .fill m rfl hm
  · cases h; exact .latch rfl
  · cases h; exact .claim rfl
  · cases h; exact .enable rfl
  · cases h; exact .ready rfl
  · cases h

theorem startStep_of_next {s t : State} {k : Nat} (h : startMicro k s = .next t) : StartStep s k t := by
  unfold startMicro at h
  split at h
  · exact of_checkStep_next h (fun c => .rejected rfl) fun hc => .accepted rfl (startCause_eq_none hc)
  · cases h; exact .activate rfl
  · cases hb : s.te.busy with
    | true => rw [startS2, teArm_of_busy hb] at h; cases h; exact .misuse rfl hb
    | false => rw [startS2, teArm_of_idle hb] at h; cases h; exact .arm rfl hb
  · cases h; exact .restart rfl
  · cases h; exact .enable rfl
  · cases h

theorem stopStep_of_next {s t : State} {k : Nat} (h : stopMicro k s = .next t) : StopStep s k t := by
  unfold stopMicro at h
  split at h
  · exact of_checkStep_next h (fun c => .rejected rfl) fun hc => .accepted rfl (stopCause_eq_none hc)
  · cases h; exact .disable rfl
  · cases h; exact .abort rfl
  · cases h

theorem getbufStep_of_next {s t : State} {k : Nat} (h : getbufMicro k s = .next t) : GetbufStep s k t := by
  unfold getbufMicro at h
  split at h
  · exact of_checkStep_next h (fun c => .rejected rfl) fun hc => .accepted rfl (getbufCause_eq_none hc)
  · cases h; exact .snapshot rfl
  · unfold getbufG2 at h
    split at h <;> cases h
    · next ha => exact .wait rfl ha
    · next ha => exact .proceed rfl ha
  · cases h; exact .answer rfl
  · cases h

theorem recordStep_of_next {s t : State} {k : Nat} (h : recordMicro k s = .next t) : RecordStep s k t := by
  unfold recordMicro at h
  split at h
  · exact of_checkStep_next h (fun c => .rejected rfl) fun hc => .accepted rfl (recordCause_eq_none hc)
  · rw [recordK1_eq] at h
    cases h
    exact .restart rfl
  · unfold recordK2 at h
    split at h
    · next hp =>
      cases h
      exact .wait rfl (by simpa [dreq] using sauPop_eq_none.1 hp)
    · next w u hp =>
      obtain ⟨ws, hq, rfl⟩ := sauPop_eq_some.1 hp
      split at h <;> cases h
      next m hm => exact .store m rfl hq hm
  · cases h; exact .finish rfl
  · cases h

/-! ## Every application step of a command begins it or is one of its micro-steps -/

theorem exec_init_next {s t : State} (h : exec .init s = .next t) :
    HostMayAct s ∧ t = startCommand .init false s ∨
    AtMicroStep .init s.cmd.cpc.toNat s ∧ InitStep s s.cmd.cpc.toNat t :=
  (commandStep_next (micro := initMicro) h).imp_right fun ⟨hat, _, h⟩ => ⟨hat, initStep_of_next h⟩

theorem exec_start_next {s t : State} (h : exec .start s = .next t) :
    HostMayAct s ∧ t = startCommand .start false s ∨
    AtMicroStep .start s.cmd.cpc.toNat s ∧ StartStep s s.cmd.cpc.toNat t :=
  (commandStep_next (micro := startMicro) h).imp_right fun ⟨hat, _, h⟩ => ⟨hat, startStep_of_next h⟩

theorem exec_stop_next {s t : State} (h : exec .stop s = .next t) :
    HostMayAct s ∧ t = startCommand .stop false s ∨
    AtMicroStep .stop s.cmd.cpc.toNat s ∧ StopStep s s.cmd.cpc.toNat t :=
  (commandStep_next (micro := stopMicro) h).imp_right fun ⟨hat, _, h⟩ => ⟨hat, stopStep_of_next h⟩

theorem exec_getbuf_next {s t : State} {b : Bool} (h : exec (.getbuf b) s = .next t) :
    HostMayAct s ∧ t = startCommand .getbuf b s ∨
    AtMicroStep .getbuf s.cmd.cpc.toNat s ∧ GetbufStep s s.cmd.cpc.toNat t :=
  (commandStep_next (micro := getbufMicro) h).imp_right fun ⟨hat, _, h⟩ => ⟨hat, getbufStep_of_next h⟩

theorem exec_record_next {s t : State} (h : exec .record s = .next t) :
    HostMayAct s ∧ t = startCommand .record false s ∨
    AtMicroStep .record s.cmd.cpc.toNat s ∧ RecordStep s s.cmd.cpc.toNat t :=
  (commandStep_next (micro := recordMicro) h).imp_right fun ⟨hat, _, h⟩ => ⟨hat, recordStep_of_next h⟩

/-! ## Frames -/

/-- Settles O28: beginning a command sets the command only, and each outcome of a micro-step sets what it lists. -/
theorem nonStoringCommandsFrame : Obligations.NonStoringCommandsFrame := by
  intro i s t hi h
  rcases hi with rfl | rfl | rfl | rfl
  · rcases exec_start_next h with ⟨-, rfl⟩ | ⟨-, hstep⟩
    · simp [startCommand]
    · cases hstep <;> simp [*, takeFault]
  · rcases exec_stop_next h with ⟨-, rfl⟩ | ⟨-, hstep⟩
    · simp [startCommand]
    · cases hstep <;> simp [takeFault]
  all_goals
    rcases exec_getbuf_next h with ⟨-, rfl⟩ | ⟨-, hstep⟩
    · simp [startCommand]
    · cases hstep <;> simp [takeFault]

/-- Settles O29: INIT's fill and RECORD's store are the only outcomes that set memory. -/
theorem storingCommandsFrame : Obligations.StoringCommandsFrame := by
  intro s t
  refine ⟨fun h => ?init, fun h => ?record⟩
  case init =>
    rcases exec_init_next h with ⟨-, rfl⟩ | ⟨-, hstep⟩
    · simp [startCommand]
    · cases hstep with
      | fill m hk hm => simpa [hk, OutsideWord] using fun x hx => read?_zeroFill_outside (x := x) hm hx
      | _ => simp [takeFault]
  case record =>
    rcases exec_record_next h with ⟨-, rfl⟩ | ⟨-, hstep⟩
    · simp [startCommand, SameOutside]
    · cases hstep with
      | store m hk hq hm => simpa [hk] using sameOutside_of_memWrite hm
      | _ => simp [takeFault, SameOutside]

end Sys2Proof.Proofs
end

section
/-! SUPPORT. All that one step of the machine can do (spec/00_scope.md rules R6 to R8), by the agent that takes it: what
every invariant is shown to survive. -/

namespace Sys2Proof.Proofs

open Sys2Proof Sys2Proof.Machine Sys2Proof.Laws

/-- When the host may act no command is in progress (44 R220). -/
theorem op_of_hostMayAct {s : State} (h : HostMayAct s) : s.cmd.op = .none := by
  obtain ⟨-, -, hop⟩ := h
  exact hop

theorem op_of_atMicroStep {op : CmdOp} {k : Nat} {s : State} (h : AtMicroStep op k s) : s.cmd.op = op := by
  obtain ⟨-, -, hop, -⟩ := h
  exact hop

/-- All that a step of APP can do: an operation of the host, or a micro-step of the command in progress. -/
inductive AppChange (s : State) : State → Prop
  | env (e : Env) : AppChange s (s.setEnv e)
  | command (hs : HostMayAct s) (op : CmdOp) (b : Bool) : AppChange s (startCommand op b s)
  | stage (hs : HostMayAct s) (x : Stage) : AppChange s (s.setStage x)
  | fault (hs : HostMayAct s) (c : Cause) : AppChange s (takeFault c s)
  | store (hs : HostMayAct s) {a : Word} {w : Width} {v : Word} (m : Memory)
      (hm : memWrite s.par s.mem a w v = some m) : AppChange s (s.setMem m)
  | init {t : State} (hat : AtMicroStep .init s.cmd.cpc.toNat s) (h : InitStep s s.cmd.cpc.toNat t) : AppChange s t
  | start {t : State} (hat : AtMicroStep .start s.cmd.cpc.toNat s) (h : StartStep s s.cmd.cpc.toNat t) :
      AppChange s t
  | stop {t : State} (hat : AtMicroStep .stop s.cmd.cpc.toNat s) (h : StopStep s s.cmd.cpc.toNat t) : AppChange s t
  | getbuf {t : State} (hat : AtMicroStep .getbuf s.cmd.cpc.toNat s) (h : GetbufStep s s.cmd.cpc.toNat t) :
      AppChange s t
  | record {t : State} (hat : AtMicroStep .record s.cmd.cpc.toNat s) (h : RecordStep s s.cmd.cpc.toNat t) :
      AppChange s t

/-- All that a step of the interrupt can do: the four steps of the handler, or the fault of the retarget. -/
inductive IrqChange (s : State) : State → Prop
  | enter (hf : s.flt.fault = false) (hh : s.ch.inHandler = false) (hp : s.irq.pend = true) (he : s.irq.en = true) :
      IrqChange s (enterHandler s)
  | publish (hf : s.flt.fault = false) (hh : s.ch.inHandler = true) (hp : s.ch.hpc = .entered) : IrqChange s { s with
      ses := { s.ses with active := s.ch.next }
      rep := { s.rep with swapcnt := satSucc s.rep.swapcnt }
      ch := { s.ch with hpc := .published } }
  | retarget (hf : s.flt.fault = false) (hh : s.ch.inHandler = true) (hp : s.ch.hpc = .published)
      (hb : s.te.busy = false) : IrqChange s { s with
      te := { s.te with busy := true, waddr := s.ses.buf s.ch.next, remain := s.te.reload }
      ch := { s.ch with hpc := .retargeted } }
  | misuse (hf : s.flt.fault = false) (hh : s.ch.inHandler = true) (hp : s.ch.hpc = .published)
      (hb : s.te.busy = true) : IrqChange s (faulted .teMisuse s)
  | ack (hf : s.flt.fault = false) (hh : s.ch.inHandler = true) (hp : s.ch.hpc = .retargeted) :
      IrqChange s (leaveHandler (teAck s))

/-- All that a step of the SAU or of the Transfer Engine can do: a word pushed, or a word copied. -/
inductive UnitChange (s : State) : State → Prop
  | word (hf : s.flt.fault = false) (hen : s.sau.en = true) (w : Word) (e : Env) :
      UnitChange s { s with sau := flipPhase (sauPush s.par.rxqDepth w s.sau), env := e }
  | copy (hf : s.flt.fault = false) (hb : s.te.busy = true) {w : Word} {ws : List Word} (m : Memory)
      (hq : s.sau.rxq = w :: ws) (hm : memWrite s.par s.mem s.te.waddr .w4 w = some m) :
      UnitChange s { s with
        sau := { s.sau with rxq := ws }
        mem := m
        te := { busy := if s.te.remain = 1#32 then false else true
                waddr := s.te.waddr + 4#32
                remain := s.te.remain - 1#32
                reload := s.te.reload }
        irq := { s.irq with pend := if s.te.remain = 1#32 then true else s.irq.pend } }

/-- A step of APP changes the state as `AppChange` says. -/
theorem appChange_of_appStep {s t : State} (h : AppStep s t) : AppChange s t := by
  rcases h with ⟨hs, op, hop⟩ | ⟨hop, hf, hh, -, hm⟩
  · rcases issue_next hs hop with ⟨hm, ⟨o, b, rfl⟩ | ⟨x, rfl⟩ | ⟨c, rfl⟩ | ⟨a, w, v, m, hw, -, rfl⟩⟩ | ⟨v, rfl⟩
    · exact .command hm o b
    · exact .stage hm x
    · exact .fault hm c
    · exact .store hm m hw
    · exact .env _
  · unfold microNext at hm
    split at hm
    case h_1 h => exact absurd h hop
    case h_2 h => exact .init ⟨hf, hh, h, rfl⟩ (initStep_of_next hm)
    case h_3 h => exact .start ⟨hf, hh, h, rfl⟩ (startStep_of_next hm)
    case h_4 h => exact .stop ⟨hf, hh, h, rfl⟩ (stopStep_of_next hm)
    case h_5 h => exact .getbuf ⟨hf, hh, h, rfl⟩ (getbufStep_of_next hm)
    case h_6 h => exact .record ⟨hf, hh, h, rfl⟩ (recordStep_of_next hm)

/-- A step of the interrupt changes the state as `IrqChange` says. -/
theorem irqChange_of_irqStep {s t : State} (h : IrqStep s t) : IrqChange s t := by
  obtain ⟨hf, ⟨hh, hl, rfl⟩ | ⟨hh, hp, h⟩ | ⟨hh, hp, h⟩ | ⟨hh, hp, rfl⟩⟩ := h
  · obtain ⟨hpend, hen⟩ := irqLine_eq_true_iff.1 hl
    exact .enter hf hh hpend hen
  · rw [chPublish_of_no_fault hf] at h
    cases h
    exact .publish hf hh hp
  · cases hb : s.te.busy with
    | false =>
      rw [chRetarget_of_idle hb hf] at h
      cases h
      exact .retarget hf hh hp hb
    | true =>
      rw [chRetarget_of_busy hb hf] at h
      cases h
      exact .misuse hf hh hp hb
  · exact .ack hf hh hp

/-- `SAU.WORD` pushes a word and changes the environment's record (40 R126). -/
theorem unitChange_of_sauWord {s t : State} (hf : s.flt.fault = false) (hen : s.sau.en = true)
    (h : sauWord s = .next t) : UnitChange s t := by
  rw [sauWord, if_neg (by simp [hf])] at h
  obtain ⟨e, he⟩ := drawMic_state s
  rw [he] at h
  cases h
  exact .word hf hen _ e

/-- `TE.COPY` on a busy engine with a word in the queue, written out (41 R145). -/
theorem teCopy_eq {s : State} {w : Word} {ws : List Word} {m : Memory} (hf : s.flt.fault = false)
    (hb : s.te.busy = true) (hq : s.sau.rxq = w :: ws) (hm : memWrite s.par s.mem s.te.waddr .w4 w = some m) :
    teCopy s = .next { s with
      sau := { s.sau with rxq := ws }
      mem := m
      te := { busy := if s.te.remain = 1#32 then false else true
              waddr := s.te.waddr + 4#32
              remain := s.te.remain - 1#32
              reload := s.te.reload }
      irq := { s.irq with pend := if s.te.remain = 1#32 then true else s.irq.pend } } := by
  rw [teCopy_of_memWrite hf hb hq hm, teAdvance_of_busy (by exact hb)]
  rfl

/-- `TE.COPY`, where it is enabled, moves a word (41 R145). -/
theorem unitChange_of_teCopy {s t : State} (hf : s.flt.fault = false) (hen : teEnabled s = true)
    (h : teCopy s = .next t) : UnitChange s t := by
  obtain ⟨hb, hq⟩ := teEnabled_eq_true_iff.1 hen
  obtain ⟨w, ws, hws⟩ := List.exists_cons_of_length_pos hq
  cases hm : memWrite s.par s.mem s.te.waddr .w4 w with
  | none => simp [teCopy, hf, hb, sauPop_eq_some.2 ⟨ws, hws, rfl⟩, hm] at h
  | some m =>
    rw [teCopy_eq hf hb hws hm] at h
    cases h
    exact .copy hf hb m hws hm

/-- Everything a step can do, with the environment's own record changed first. -/
theorem step_changes {s t : State} (h : step s = .next t) :
    ∃ e, AppChange (s.setEnv e) t ∨ ((takeTurn s).1 = some .irq ∧ IrqChange (s.setEnv e) t) ∨
      UnitChange (s.setEnv e) t ∨ (s.env.sched.head? = some .reset ∧ t = assertReset (s.setEnv e)) := by
  obtain ⟨e, rfl | h | ⟨hturn, h⟩ | ⟨hf, hen, h⟩ | ⟨hf, hen, h⟩ | h⟩ := step_cases h
  · exact ⟨s.env, .inl (.env e)⟩
  · exact ⟨e, .inl (appChange_of_appStep h)⟩
  · exact ⟨e, .inr (.inl ⟨hturn, irqChange_of_irqStep h⟩)⟩
  · exact ⟨e, .inr (.inr (.inl (unitChange_of_sauWord hf hen h)))⟩
  · exact ⟨e, .inr (.inr (.inl (unitChange_of_teCopy hf hen h)))⟩
  · exact ⟨e, .inr (.inr (.inr h))⟩

/-- A property that does not look at the environment survives a step if every agent's changes keep it. -/
theorem step_keeps {P : State → Prop} (env : ∀ {s} e, P s → P (s.setEnv e))
    (app : ∀ {s t}, P s → AppChange s t → P t) (irq : ∀ {s t}, P s → IrqChange s t → P t)
    (unit : ∀ {s t}, P s → UnitChange s t → P t) (reset : ∀ {s}, P s → P (assertReset s)) {s t : State}
    (hs : P s) (h : step s = .next t) : P t := by
  obtain ⟨e, h | ⟨-, h⟩ | h | ⟨-, rfl⟩⟩ := step_changes h
  · exact app (env e hs) h
  · exact irq (env e hs) h
  · exact unit (env e hs) h
  · exact reset (env e hs)

end Sys2Proof.Proofs
end

section
/-! SUPPORT. The block's invariant (spec/10_state.md rule R51 with spec/41_transfer_engine.md rule R146): every change of
every agent keeps it. -/

namespace Sys2Proof.Proofs

open Sys2Proof Sys2Proof.Machine Sys2Proof.Laws

/-! ## What a command has established -/

/-- With no command in progress there is nothing to establish. -/
theorem commandProgress_none {s : State} (hop : s.cmd.op = .none) (hk : s.cmd.cpc.toNat = 0) : CommandProgress s := by
  simpa only [CommandProgress, hop] using hk

/-- A command that begins has established nothing yet. -/
theorem commandProgress_begun {s : State} (hk : s.cmd.cpc.toNat = 0)
    (hu : s.ses.sess = .uninit → s.irq.en = false ∧ s.ses.buf0 = 0#32 ∧ s.ses.buf1 = 0#32) :
    CommandProgress s := by
  cases hop : s.cmd.op with
  | init => simp only [CommandProgress, hop]; exact .inl ⟨hk, hu⟩
  | none | start | stop | getbuf | record => simp [CommandProgress, hop, hk]

/-- What INIT has established is what `InitProgress` says. -/
theorem commandProgress_init_iff {s : State} (hop : s.cmd.op = .init) : CommandProgress s ↔ InitProgress s := by
  simp only [CommandProgress, hop]

/-- INIT's check passes only without a session and with a legal count (43 R185). -/
theorem initCause_eq_none {s : State} (h : initCause s = none) :
    s.ses.sess = .uninit ∧ 1 ≤ s.stage.count.toNat ∧ s.stage.count.toNat ≤ Config.maxCount := by
  unfold initCause at h
  split at h
  · cases h
  next hu =>
    split at h
    · cases h
    next hc => exact ⟨not_not.1 hu, by omega, by omega⟩

/-- Before a session the interrupt is off and there are no buffers, but while INIT is past its checks. -/
theorem no_buffers_of_blockInv {s : State} (h : BlockInv s) (hcmd : s.cmd.op = .init → s.cmd.cpc.toNat = 0)
    (hu : s.ses.sess = .uninit) : s.irq.en = false ∧ s.ses.buf0 = 0#32 ∧ s.ses.buf1 = 0#32 := by
  by_cases hop : s.cmd.op = .init
  · rcases (commandProgress_init_iff hop).1 h.command with ⟨-, hu'⟩ | ⟨hk, -⟩
    · exact hu' hu
    · have := hcmd hop
      omega
  · obtain ⟨-, -, -, -, hoff⟩ := h.uninit hu
    exact hoff hop

/-- What runs presupposes a session. -/
theorem session_of_running {s : State} (h : BlockInv s)
    (hr : s.te.busy = true ∨ s.sau.en = true ∨ s.irq.pend = true ∨ s.ch.inHandler = true) : s.ses.sess ≠ .uninit := by
  intro hu
  obtain ⟨hb, hen, hp, hh, -⟩ := h.uninit hu
  simp [hb, hen, hp, hh] at hr

/-- In a session INIT is at its check step (43 R185). -/
theorem init_at_check_of_session {s : State} (h : BlockInv s) (hs : s.ses.sess ≠ .uninit) (hop : s.cmd.op = .init) :
    s.cmd.cpc.toNat = 0 := by
  rcases (commandProgress_init_iff hop).1 h.command with ⟨hk, -⟩ | ⟨-, -, hu, -⟩
  · exact hk
  · exact absurd hu hs

/-! ## The environment, the host, and faults -/

theorem blockInv_setEnv {s : State} (e : Env) (h : BlockInv s) : BlockInv (s.setEnv e) :=
  { h with }

/-- Without a session and with the same idle units, the invariant is about the command in progress alone. -/
theorem blockInv_setCmd {s : State} {c : Command} (h : BlockInv s) (hcmd : s.cmd.op = .init → s.cmd.cpc.toNat = 0)
    (hprogress : CommandProgress (s.setCmd c)) (hrec : c.recK = s.cmd.recK) : BlockInv (s.setCmd c) :=
  have off := no_buffers_of_blockInv h hcmd
  { h with
    uninit := fun hu =>
      have ⟨hb, hen, hp, hh, _⟩ := h.uninit hu
      ⟨hb, hen, hp, hh, fun _ => off hu⟩
    command := hprogress
    counter := by rw [setCmd_cmd, hrec]; exact h.counter }

/-- A fault keeps the invariant where INIT is not past its checks. -/
theorem blockInv_takeFault {s : State} (h : BlockInv s) (hcmd : s.cmd.op = .init → s.cmd.cpc.toNat = 0) (c : Cause) :
    BlockInv (takeFault c s) :=
  blockInv_setCmd (s := s.setFlt (recordFault c s.flt)) { h with } hcmd (commandProgress_none rfl rfl) rfl

theorem blockInv_startCommand {s : State} (h : BlockInv s) (hs : HostMayAct s) (op : CmdOp) (b : Bool) :
    BlockInv (startCommand op b s) := by
  have hcmd : s.cmd.op = .init → s.cmd.cpc.toNat = 0 := by simp [op_of_hostMayAct hs]
  have off := no_buffers_of_blockInv h hcmd
  exact blockInv_setCmd h hcmd (commandProgress_begun rfl off) rfl

theorem blockInv_setStage {s : State} (h : BlockInv s) (hs : HostMayAct s) (x : Stage) : BlockInv (s.setStage x) :=
  have hop := op_of_hostMayAct hs
  have hk : s.cmd.cpc.toNat = 0 := by simpa only [CommandProgress, hop] using h.command
  { h with command := commandProgress_none hop hk }

theorem blockInv_setMem {s : State} {m : Memory} (h : BlockInv s) (hm : m.wf = true) : BlockInv (s.setMem m) :=
  { h with memory := hm }

/-! ## INIT -/

/-- What every micro-step of INIT leaves alone. -/
structure InitFrame (s t : State) : Prop where
  par : t.par = s.par
  sau : t.sau = s.sau
  pend : t.irq.pend = s.irq.pend
  ch : t.ch = s.ch
  recK : t.cmd.recK = s.cmd.recK
  result : t.rep.result = s.rep.result

theorem initStep_frame {s t : State} {k : Nat} (h : InitStep s k t) : InitFrame s t := by
  cases h <;> constructor <;> rfl

/-- Before a session the invariant is about memory, the idle engine and the command in progress alone. -/
theorem blockInv_before_session {s t : State} (h : BlockInv s) (hu : s.ses.sess = .uninit) (hf : InitFrame s t)
    (hsess : t.ses.sess = .uninit) (hmem : t.mem.wf = true) (hte : t.te.busy = false) (hcmd : CommandProgress t)
    (hoff : t.cmd.op ≠ .init → t.irq.en = false ∧ t.ses.buf0 = 0#32 ∧ t.ses.buf1 = 0#32) : BlockInv t := by
  obtain ⟨-, hen, hp, hh, -⟩ := h.uninit hu
  obtain ⟨-, hrec⟩ := h.counter
  have hp' : t.irq.pend = false := hf.pend.trans hp
  have hh' : t.ch.inHandler = false := (congrArg _ hf.ch).trans hh
  have hrec' : t.cmd.recK.toNat = 0 := (congrArg _ hf.recK).trans (hrec hu)
  exact {
    memory := hmem
    uninit := fun _ => ⟨hte, (congrArg _ hf.sau).trans hen, hp', hh', hoff⟩
    buffers := fun hne => absurd hsess hne
    queue := by rw [hf.sau, hf.par]; exact h.queue
    engine := by simp [hte]
    armed := by simp [hte, hp', hh']
    handler := by rw [hf.ch]; exact h.handler
    command := hcmd
    counter := ⟨by omega, fun _ => hrec'⟩ }

/-- While INIT goes on there is no session, and the invariant is about memory, the engine and what INIT has done. -/
theorem blockInv_init_goes_on {s t : State} (h : BlockInv s) (hu : s.ses.sess = .uninit) (hf : InitFrame s t)
    (hsess : t.ses.sess = .uninit) (hmem : t.mem.wf = true) (hte : t.te.busy = false) (hop : t.cmd.op = .init)
    (hp : InitProgress t) : BlockInv t :=
  blockInv_before_session h hu hf hsess hmem hte ((commandProgress_init_iff hop).2 hp) fun hne => absurd hop hne

theorem blockInv_initStep {s t : State} (h : BlockInv s) (hat : AtMicroStep .init s.cmd.cpc.toNat s)
    (hstep : InitStep s s.cmd.cpc.toNat t) : BlockInv t := by
  have hop := op_of_atMicroStep hat
  have hp := (commandProgress_init_iff hop).1 h.command
  have hf := initStep_frame hstep
  -- Past the checks there is no session, and each micro-step finds what the ones before it have established.
  have past : s.cmd.cpc.toNat ≠ 0 → _ := fun hk => hp.resolve_left fun hz => hk hz.1
  cases hstep with
  | rejected hk hc => exact blockInv_takeFault h (fun _ => hk) _
  | accepted hk hc =>
    obtain ⟨hu, hlo, hhi⟩ := initCause_eq_none hc
    obtain ⟨hen, h01⟩ := no_buffers_of_blockInv h (fun _ => hk) hu
    exact blockInv_init_goes_on h hu hf hu h.memory (h.uninit hu).1 hop
      (.inr ⟨by simp, by simp, hu, hlo, hhi, fun _ => hen, fun _ => h01, by simp,
        by simp, by simp, by simp⟩)
  | noBuf0 as d hk =>
    obtain ⟨-, -, hu, -, -, hen, h01, -⟩ := past (by omega)
    exact blockInv_before_session h hu hf hu h.memory (h.uninit hu).1 (commandProgress_none rfl rfl)
      fun _ => ⟨hen (by omega), h01 hk⟩
  | buf0 as d a hk ha =>
    obtain ⟨-, -, hu, hlo, hhi, hen, h01, -⟩ := past (by omega)
    exact blockInv_init_goes_on h hu hf hu h.memory (h.uninit hu).1 hop
      (.inr ⟨by simp, by simp, hu, hlo, hhi, fun _ => hen (by omega), by simp,
        fun _ => ⟨regionOk_of_allocAllows ha, (h01 hk).2, List.mem_cons_self⟩, by simp, by simp, by simp⟩)
  | noBuf1 as d hk =>
    obtain ⟨-, -, hu, -, -, hen, -, h2, -⟩ := past (by omega)
    obtain ⟨-, h1, -⟩ := h2 hk
    exact blockInv_before_session h hu hf hu h.memory (h.uninit hu).1 (commandProgress_none rfl rfl)
      fun _ => ⟨hen (by omega), rfl, h1⟩
  | buf1 as d a hk ha =>
    obtain ⟨-, -, hu, hlo, hhi, hen, -, h2, -⟩ := past (by omega)
    obtain ⟨hreg, -, hmem⟩ := h2 hk
    obtain ⟨-, -, -, -, hdisj⟩ := id ha
    have hbuf : BuffersOk (s.setSes { s.ses with buf1 := a }) s.stage.count.toNat :=
      ⟨hlo, hhi, hreg, regionOk_of_allocAllows ha, (hdisj _ hmem).symm⟩
    exact blockInv_init_goes_on h hu hf hu h.memory (h.uninit hu).1 hop
      (.inr ⟨by simp, by simp, hu, hlo, hhi, fun _ => hen (by omega), by simp,
        by simp, fun _ => hbuf, by simp, by simp⟩)
  | fill m hk hm =>
    obtain ⟨-, -, hu, hlo, hhi, hen, -, -, h3, -⟩ := past (by omega)
    exact blockInv_init_goes_on h hu hf hu (wf_zeroFill hm h.memory) (h.uninit hu).1 hop
      (.inr ⟨by simp, by simp, hu, hlo, hhi, fun _ => hen (by omega), by simp,
        by simp, fun _ => h3 (by omega), by simp, by simp⟩)
  | latch hk =>
    obtain ⟨-, -, hu, hlo, hhi, hen, -, -, h3, -⟩ := past (by omega)
    exact blockInv_init_goes_on h hu hf hu h.memory (h.uninit hu).1 hop
      (.inr ⟨by simp, by simp, hu, hlo, hhi, fun _ => hen (by omega), by simp,
        by simp, fun _ => h3 (by omega), fun _ => rfl, by simp⟩)
  | claim hk =>
    obtain ⟨-, -, hu, hlo, hhi, hen, -, -, h3, hn, -⟩ := past (by omega)
    exact blockInv_init_goes_on h hu hf hu h.memory rfl hop
      (.inr ⟨by simp, by simp, hu, hlo, hhi, fun _ => hen (by omega), by simp,
        by simp, fun _ => h3 (by omega), fun _ => hn (by omega), by simp⟩)
  | enable hk =>
    obtain ⟨-, -, hu, hlo, hhi, -, -, -, h3, hn, -⟩ := past (by omega)
    exact blockInv_init_goes_on h hu hf hu h.memory (h.uninit hu).1 hop
      (.inr ⟨by simp, by simp, hu, hlo, hhi, by simp, by simp,
        by simp, fun _ => h3 (by omega), fun _ => hn (by omega), fun _ => rfl⟩)
  | ready hk =>
    obtain ⟨-, -, hu, -, -, -, -, -, h3, hn, -⟩ := past (by omega)
    obtain ⟨hb, -, hpend, hh, -⟩ := h.uninit hu
    have hbuf : BuffersOk s s.cfg.n.toNat := hn (by omega) ▸ h3 (by omega)
    exact { h with
      uninit := nofun
      buffers := fun _ => hbuf
      armed := by simp [hb, hpend, hh]
      command := commandProgress_none rfl rfl
      counter := ⟨h.counter.1, nofun⟩ }

/-! ## START, STOP, GETBUF and RECORD -/

/-- The engine's target is word 0 of the buffer when nothing has been copied yet. -/
theorem wordAddr_zero (a : Word) : wordAddr a 0 = a := by
  simp [wordAddr]

theorem blockInv_startStep {s t : State} (h : BlockInv s) (hat : AtMicroStep .start s.cmd.cpc.toNat s)
    (hstep : StartStep s s.cmd.cpc.toNat t) : BlockInv t := by
  obtain ⟨-, -, hop, -⟩ := hat
  have notInit : s.cmd.op = .init → s.cmd.cpc.toNat = 0 := by simp [hop]
  obtain ⟨-, hready, hactive⟩ : s.cmd.cpc.toNat ≤ 4 ∧ (s.cmd.cpc.toNat = 1 → s.ses.sess = .ready) ∧
      (2 ≤ s.cmd.cpc.toNat → s.ses.sess = .active) := by simpa only [CommandProgress, hop] using h.command
  cases hstep with
  | rejected hk hc => exact blockInv_takeFault h notInit _
  | accepted hk hs => exact blockInv_setCmd h notInit (by simp [CommandProgress, hop, hs]) rfl
  | activate hk =>
    exact { h with
      uninit := nofun
      buffers := fun _ => h.buffers (by simp [hready hk])
      command := by simp [CommandProgress, hop]
      counter := ⟨h.counter.1, nofun⟩ }
  | misuse hk hb => exact blockInv_takeFault h notInit _
  | arm hk hb =>
    have hs : s.ses.sess = .active := hactive (by omega)
    obtain ⟨hn, -⟩ := h.buffers (by simp [hs])
    exact { h with
      uninit := by simp [hs]
      engine := fun _ => ⟨hn, le_rfl, false, by simp [TargetIs, Session.buf, wordAddr_zero]⟩
      armed := fun _ => rfl
      command := by simp [CommandProgress, hop, hs] }
  | restart hk =>
    have hs : s.ses.sess = .active := hactive (by omega)
    exact { h with
      uninit := by simp [hs]
      queue := Nat.zero_le _
      command := by simp [CommandProgress, hop, hs] }
  | enable hk =>
    have hs : s.ses.sess = .active := hactive (by omega)
    exact { h with
      uninit := by simp [hs]
      command := commandProgress_none rfl rfl }

theorem blockInv_stopStep {s t : State} (h : BlockInv s) (hat : AtMicroStep .stop s.cmd.cpc.toNat s)
    (hstep : StopStep s s.cmd.cpc.toNat t) : BlockInv t := by
  obtain ⟨-, -, hop, -⟩ := hat
  have notInit : s.cmd.op = .init → s.cmd.cpc.toNat = 0 := by simp [hop]
  obtain ⟨-, hactive⟩ : s.cmd.cpc.toNat ≤ 2 ∧ (1 ≤ s.cmd.cpc.toNat → s.ses.sess = .active) := by
    simpa only [CommandProgress, hop] using h.command
  cases hstep with
  | rejected hk hc => exact blockInv_takeFault h notInit _
  | accepted hk hs => exact blockInv_setCmd h notInit (by simp [CommandProgress, hop, hs]) rfl
  | disable hk =>
    have hs : s.ses.sess = .active := hactive (by omega)
    exact { h with
      uninit := by simp [hs]
      command := by simp [CommandProgress, hop, hs] }
  | abort hk =>
    have hs : s.ses.sess = .active := hactive (by omega)
    exact { h with
      uninit := nofun
      buffers := fun _ => h.buffers (by simp [hs])
      engine := nofun
      armed := fun ha => h.armed (ha.imp_left nofun)
      command := commandProgress_none rfl rfl
      counter := ⟨h.counter.1, nofun⟩ }

theorem blockInv_getbufStep {s t : State} (h : BlockInv s) (hat : AtMicroStep .getbuf s.cmd.cpc.toNat s)
    (hstep : GetbufStep s s.cmd.cpc.toNat t) : BlockInv t := by
  obtain ⟨-, -, hop, -⟩ := hat
  have notInit : s.cmd.op = .init → s.cmd.cpc.toNat = 0 := by simp [hop]
  obtain ⟨-, hsess⟩ : s.cmd.cpc.toNat ≤ 3 ∧ (1 ≤ s.cmd.cpc.toNat → s.ses.sess ≠ .uninit) := by
    simpa only [CommandProgress, hop] using h.command
  cases hstep with
  | rejected hk hc => exact blockInv_takeFault h notInit _
  | accepted hk hs =>
    refine blockInv_setCmd h notInit ?_ rfl
    cases s.cmd.b <;> simp [CommandProgress, hop, hs, getbufEntry]
  | snapshot hk => exact blockInv_setCmd h notInit (by simp [CommandProgress, hop, hsess (by omega)]) rfl
  | wait hk ha => exact h
  | proceed hk ha => exact blockInv_setCmd h notInit (by simp [CommandProgress, hop, hsess (by omega)]) rfl
  | answer hk =>
    exact blockInv_setCmd (s := s.setRep { swapcnt := 0#32, err := .ok, result := s.ses.buf (!s.ses.active) })
      { h with } notInit (commandProgress_none rfl rfl) rfl

/-- After a word RECORD is at K2 again or at K3 (43 R198). -/
theorem toNat_recordNext (k n : Word) :
    (BitVec.ofNat 32 (recordNext k n)).toNat = if k.toNat < n.toNat then 2 else 3 := by
  unfold recordNext
  split <;> rfl

theorem blockInv_recordStep {s t : State} (h : BlockInv s) (hat : AtMicroStep .record s.cmd.cpc.toNat s)
    (hstep : RecordStep s s.cmd.cpc.toNat t) : BlockInv t := by
  obtain ⟨-, -, hop, -⟩ := hat
  have notInit : s.cmd.op = .init → s.cmd.cpc.toNat = 0 := by simp [hop]
  obtain ⟨-, hready, hrec⟩ : s.cmd.cpc.toNat ≤ 3 ∧ (1 ≤ s.cmd.cpc.toNat → s.ses.sess = .ready) ∧
      (s.cmd.cpc.toNat = 2 → s.cmd.recK.toNat < s.cfg.n.toNat) := by simpa only [CommandProgress, hop] using h.command
  cases hstep with
  | rejected hk hc => exact blockInv_takeFault h notInit _
  | accepted hk hs => exact blockInv_setCmd h notInit (by simp [CommandProgress, hop, hs]) rfl
  | restart hk =>
    have hs : s.ses.sess = .ready := hready (by omega)
    obtain ⟨hn, -⟩ := h.buffers (by simp [hs])
    exact { h with
      uninit := by simp [hs]
      queue := by
        have := h.queue
        split <;> simp [this]
      command := by simp [CommandProgress, hop, hs, Nat.pos_of_ne_zero (Nat.one_le_iff_ne_zero.1 hn)]
      counter := ⟨Nat.zero_le _, fun _ => rfl⟩ }
  | wait hk hq => exact h
  | @store w ws m hk hq hm =>
    have hs : s.ses.sess = .ready := hready (by omega)
    have hlt := hrec hk
    have hk1 := toNat_add_one_of_lt hlt
    have hlen : ws.length + 1 ≤ s.par.rxqDepth := by simpa [hq] using h.queue
    exact { h with
      memory := wf_memWrite hm h.memory
      uninit := by simp [hs]
      queue := Nat.le_of_succ_le hlen
      command := by
        simp only [CommandProgress, hop, toNat_recordNext]
        refine ⟨by split <;> simp, fun _ => hs, fun h2 => ?_⟩
        by_contra hge
        rw [if_neg hge] at h2
        cases h2
      counter := ⟨by simp only [hk1]; omega, by simp [hs]⟩ }
  | finish hk =>
    have hs : s.ses.sess = .ready := hready (by omega)
    exact { h with
      uninit := by simp [hs]
      command := commandProgress_none rfl rfl }

/-! ## The interrupt, the units and reset -/

theorem blockInv_irqChange {s t : State} (h : BlockInv s) (hstep : IrqChange s t) : BlockInv t := by
  cases hstep with
  | enter hf hh hp he =>
    have hs := session_of_running h (.inr (.inr (.inl hp)))
    exact { h with
      uninit := fun hu => absurd hu hs
      armed := fun _ => h.armed (.inr (.inl hp))
      handler := by simp [enterHandler] }
  | publish hf hh hp => exact { h with handler := by simp [hh] }
  | retarget hf hh hp hb =>
    have hs := session_of_running h (.inr (.inr (.inr hh)))
    have hreload := h.armed (.inr (.inr hh))
    obtain ⟨hn, -⟩ := h.buffers hs
    exact { h with
      uninit := fun hu => absurd hu hs
      engine := fun _ => ⟨by rw [hreload]; exact hn, le_rfl, s.ch.next, by simp [TargetIs, wordAddr_zero]⟩
      armed := fun _ => hreload
      handler := by simp [hh] }
  | misuse hf hh hp hb =>
    rw [← takeFault_of_no_fault hf]
    exact blockInv_takeFault h (init_at_check_of_session h (session_of_running h (.inl hb))) _
  | ack hf hh hp =>
    have hs := session_of_running h (.inr (.inr (.inr hh)))
    exact { h with
      uninit := fun hu => absurd hu hs
      armed := fun ha => h.armed (ha.imp_right nofun)
      handler := by simp [leaveHandler] }

/-- The count after a word is copied does not wrap. -/
theorem toNat_sub_one {w : Word} (h : 1 ≤ w.toNat) : (w - 1#32).toNat = w.toNat - 1 := by
  bv_omega

/-- After a word the engine's address is that of the next word of the same buffer (41 R145, R146). -/
theorem target_after_word {a waddr remain reload : Word} (hlo : 1 ≤ remain.toNat) (hhi : remain.toNat ≤ reload.toNat)
    (h : waddr = wordAddr a (reload.toNat - remain.toNat)) :
    waddr + 4#32 = wordAddr a (reload.toNat - (remain - 1#32).toNat) := by
  rw [h, wordAddr_succ, toNat_sub_one hlo]
  congr 1
  omega

theorem blockInv_unitChange {s t : State} (h : BlockInv s) (hstep : UnitChange s t) : BlockInv t := by
  cases hstep with
  | word hf hen w e =>
    have hs := session_of_running h (.inr (.inl hen))
    exact { h with
      uninit := fun hu => absurd hu hs
      queue := sauPush_length w h.queue }
  | @copy hf hb w ws m hq hm =>
    have hs := session_of_running h (.inl hb)
    obtain ⟨hlo, hhi, i, htarget⟩ := h.engine hb
    have hlen : ws.length + 1 ≤ s.par.rxqDepth := by simpa [hq] using h.queue
    exact { h with
      memory := wf_memWrite hm h.memory
      uninit := fun hu => absurd hu hs
      queue := Nat.le_of_succ_le hlen
      engine := fun hb' => by
        have hlast : s.te.remain ≠ 1#32 := by
          intro hlast
          simp [hlast] at hb'
        have hne : s.te.remain.toNat ≠ 1 := fun h1 => hlast (BitVec.toNat_inj.1 h1)
        refine ⟨?_, ?_, i, target_after_word hlo hhi htarget⟩ <;> simp only [toNat_sub_one hlo] <;> omega
      armed := fun _ => h.armed (.inl hb) }

/-- Nothing runs after reset. -/
theorem blockInv_resetOf (p : Params) : BlockInv (State.resetOf p) where
  memory := wf_resetOf p
  uninit := fun _ => ⟨rfl, rfl, rfl, rfl, fun _ => ⟨rfl, rfl, rfl⟩⟩
  buffers := fun h => absurd rfl h
  queue := Nat.zero_le _
  engine := nofun
  armed := fun _ => rfl
  handler := ⟨fun _ => rfl, fun _ => rfl⟩
  command := commandProgress_none rfl rfl
  counter := ⟨Nat.zero_le _, fun _ => rfl⟩

/-- A reset keeps the invariant: memory keeps its bytes, everything else is as after power-up. -/
theorem blockInv_assertReset {s : State} (h : BlockInv s) : BlockInv (assertReset s) :=
  { blockInv_resetOf s.par with memory := h.memory }

/-! ## Every step -/

theorem blockInv_appChange {s t : State} (h : BlockInv s) (hstep : AppChange s t) : BlockInv t := by
  cases hstep with
  | env e => exact blockInv_setEnv e h
  | command hs op b => exact blockInv_startCommand h hs op b
  | stage hs x => exact blockInv_setStage h hs x
  | fault hs c => exact blockInv_takeFault h (by simp [op_of_hostMayAct hs]) c
  | store hs m hm => exact blockInv_setMem h (wf_memWrite hm h.memory)
  | init hat hi => exact blockInv_initStep h hat hi
  | start hat hi => exact blockInv_startStep h hat hi
  | stop hat hi => exact blockInv_stopStep h hat hi
  | getbuf hat hi => exact blockInv_getbufStep h hat hi
  | record hat hi => exact blockInv_recordStep h hat hi

/-- Settles O52: the changes of APP, of the interrupt and of the units, and reset, each keep the invariant. -/
theorem blockInvKept : Obligations.BlockInvKept := fun _ _ =>
  step_keeps blockInv_setEnv blockInv_appChange blockInv_irqChange blockInv_unitChange blockInv_assertReset

end Sys2Proof.Proofs
end

section
/-! SUPPORT. The ping-pong (spec/10_state.md rule R52): every change keeps it but the acknowledge that loses a completion
event (spec/70_reset_and_hazards.md rule R290). -/

namespace Sys2Proof.Proofs

open Sys2Proof Sys2Proof.Machine Sys2Proof.Laws

/-- START is about to arm the engine: the window that 10 R52 leaves out. -/
def AtArming (s : State) : Prop := s.cmd.op = .start ∧ s.cmd.cpc.toNat = 2

/-- A change that leaves session, engine, event and handler alone, outside the window, keeps the ping-pong. -/
theorem pingPong_of_units_kept {s t : State} (h : PingPong s) (hs : ¬AtArming s) (ht : ¬AtArming t)
    (hses : t.ses = s.ses) (hte : t.te = s.te) (hpend : t.irq.pend = s.irq.pend) (hch : t.ch = s.ch)
    (hflt : t.flt.fault = false → s.flt.fault = false) : PingPong t := by
  have htarget : ∀ i, TargetIs t i ↔ TargetIs s i := fun i => by rw [TargetIs, TargetIs, hses, hte]
  constructor
  · rw [hch, hses]; exact h.published
  · rw [hch, hte, htarget, hses]; exact h.retargeted
  · rw [hch, hte, hpend, htarget, hses]
    exact fun hf hp hb hpe _ => h.target (hflt hf) hp hb hpe hs
  · exact fun _ hop hk => absurd ⟨hop, hk⟩ ht
  · rw [hch, hte, hpend, hses]
    exact fun hp ha _ => h.running hp ha hs

/-- Outside the handler, with the engine idle and no session active, there is nothing to keep. -/
theorem pingPong_of_idle {t : State} (hp : t.ch.hpc = .idle) (hb : t.te.busy = false) (hs : t.ses.sess ≠ .active)
    (hop : t.cmd.op ≠ .start) : PingPong t := by
  constructor
  · simp [hp]
  · simp [hp]
  · simp [hb]
  · exact fun _ h => absurd h hop
  · exact fun _ h => absurd h hs

theorem pingPong_setEnv {s : State} (e : Env) (h : PingPong s) : PingPong (s.setEnv e) :=
  { h with }

/-- Outside the window a fault keeps the ping-pong: what it asks of the engine it asks before a fault. -/
theorem pingPong_takeFault {s : State} (h : PingPong s) (hs : ¬AtArming s) (c : Cause) : PingPong (takeFault c s) := by
  have hnone : ¬AtArming (takeFault c s) := fun hw => absurd hw.1 nofun
  have hfault : (takeFault c s).flt.fault = false → s.flt.fault = false := fun hf => by
    rw [takeFault_fault] at hf
    cases hf
  exact pingPong_of_units_kept h hs hnone rfl rfl rfl rfl hfault

theorem pingPong_initStep {s t : State} (hinv : BlockInv s) (h : PingPong s) (hat : AtMicroStep .init s.cmd.cpc.toNat s)
    (hstep : InitStep s s.cmd.cpc.toNat t) : PingPong t := by
  obtain ⟨-, hh, hop, -⟩ := hat
  have hp : s.ch.hpc = .idle := hinv.handler.1 hh
  have hnot : ¬AtArming s := by simp [AtArming, hop]
  -- Past the checks there is no session and the engine is idle.
  have past : s.cmd.cpc.toNat ≠ 0 → s.ses.sess = .uninit ∧ s.te.busy = false := by
    intro hk
    have hu : s.ses.sess = .uninit := by
      by_contra hu
      exact hk (init_at_check_of_session hinv hu hop)
    exact ⟨hu, (hinv.uninit hu).1⟩
  cases hstep with
  | rejected hk hc => exact pingPong_takeFault h hnot _
  | accepted hk hc => exact pingPong_of_units_kept h hnot (by simp [AtArming]) rfl rfl rfl rfl id
  | claim hk =>
    obtain ⟨hu, -⟩ := past (by omega)
    exact pingPong_of_idle hp rfl (by simp [hu]) (by simp [hop])
  | ready hk =>
    obtain ⟨hu, hb⟩ := past (by omega)
    exact pingPong_of_idle hp hb (by simp) (by simp)
  | noBuf0 _ _ hk | buf0 _ _ _ hk | noBuf1 _ _ hk | buf1 _ _ _ hk | fill _ hk | latch hk | enable hk =>
    obtain ⟨hu, hb⟩ := past (by omega)
    exact pingPong_of_idle hp hb (by simp [hu]) (by simp [hop])

theorem pingPong_startStep {s t : State} (hinv : BlockInv s) (h : PingPong s)
    (hat : AtMicroStep .start s.cmd.cpc.toNat s) (hstep : StartStep s s.cmd.cpc.toNat t) : PingPong t := by
  obtain ⟨-, hh, hop, -⟩ := hat
  have hp : s.ch.hpc = .idle := hinv.handler.1 hh
  have outside : s.cmd.cpc.toNat ≠ 2 → ¬AtArming s := fun hk hw => hk hw.2
  cases hstep with
  | rejected hk hc => exact pingPong_takeFault h (outside (by omega)) _
  | accepted hk hs => exact pingPong_of_units_kept h (outside (by omega)) (by simp [AtArming]) rfl rfl rfl rfl id
  | activate hk =>
    exact {
      published := by simp [hp]
      retargeted := by simp [hp]
      target := fun _ _ _ _ hw => absurd ⟨hop, rfl⟩ hw
      starting := fun _ _ _ _ _ => rfl
      running := fun _ _ hw => absurd ⟨hop, rfl⟩ hw }
  | misuse hk hb =>
    exact {
      published := by simp [takeFault, hp]
      retargeted := by simp [takeFault, hp]
      target := fun hf => absurd hf (by rw [takeFault_fault]; simp)
      starting := by simp [takeFault]
      running := fun _ _ _ => .inl hb }
  | arm hk hb =>
    exact {
      published := by simp [hp]
      retargeted := by simp [hp]
      target := fun _ _ _ hpend _ => by
        have ha : s.ses.active = false := h.starting hp hop hk hb hpend
        simp [TargetIs, ha, Session.buf, wordAddr_zero]
      starting := by simp
      running := fun _ _ _ => .inl rfl }
  | restart hk => exact pingPong_of_units_kept h (outside (by omega)) (by simp [AtArming]) rfl rfl rfl rfl id
  | enable hk => exact pingPong_of_units_kept h (outside (by omega)) (by simp [AtArming]) rfl rfl rfl rfl id

theorem pingPong_stopStep {s t : State} (hinv : BlockInv s) (h : PingPong s)
    (hat : AtMicroStep .stop s.cmd.cpc.toNat s) (hstep : StopStep s s.cmd.cpc.toNat t) : PingPong t := by
  obtain ⟨-, hh, hop, -⟩ := hat
  have hnot : ¬AtArming s := by simp [AtArming, hop]
  cases hstep with
  | rejected hk hc => exact pingPong_takeFault h hnot _
  | accepted hk hs => exact pingPong_of_units_kept h hnot (by simp [AtArming]) rfl rfl rfl rfl id
  | disable hk => exact pingPong_of_units_kept h hnot (by simp [AtArming, hop]) rfl rfl rfl rfl id
  | abort hk => exact pingPong_of_idle (hinv.handler.1 hh) rfl (by simp) (by simp)

theorem pingPong_getbufStep {s t : State} (h : PingPong s) (hat : AtMicroStep .getbuf s.cmd.cpc.toNat s)
    (hstep : GetbufStep s s.cmd.cpc.toNat t) : PingPong t := by
  obtain ⟨-, -, hop, -⟩ := hat
  have hnot : ¬AtArming s := by simp [AtArming, hop]
  cases hstep with
  | rejected hk hc => exact pingPong_takeFault h hnot _
  | wait hk ha => exact h
  | accepted _ _ | snapshot _ | proceed _ _ | answer _ =>
    exact pingPong_of_units_kept h hnot (by simp [AtArming, hop]) rfl rfl rfl rfl id

theorem pingPong_recordStep {s t : State} (h : PingPong s) (hat : AtMicroStep .record s.cmd.cpc.toNat s)
    (hstep : RecordStep s s.cmd.cpc.toNat t) : PingPong t := by
  obtain ⟨-, -, hop, -⟩ := hat
  have hnot : ¬AtArming s := by simp [AtArming, hop]
  cases hstep with
  | rejected hk hc => exact pingPong_takeFault h hnot _
  | wait hk hq => exact h
  | accepted _ _ | restart _ | store _ _ _ _ | finish _ =>
    exact pingPong_of_units_kept h hnot (by simp [AtArming, hop]) rfl rfl rfl rfl id

theorem pingPong_appChange {s t : State} (hinv : BlockInv s) (h : PingPong s) (hstep : AppChange s t) :
    PingPong t := by
  have outside : HostMayAct s → ¬AtArming s := fun hs hw => absurd hw.1 (by simp [op_of_hostMayAct hs])
  cases hstep with
  | env e => exact pingPong_setEnv e h
  | command hs op b =>
    exact pingPong_of_units_kept h (outside hs) (by simp [AtArming, startCommand]) rfl rfl rfl rfl id
  | stage hs x => exact pingPong_of_units_kept h (outside hs) (outside hs) rfl rfl rfl rfl id
  | fault hs c => exact pingPong_takeFault h (outside hs) c
  | store hs m hm => exact pingPong_of_units_kept h (outside hs) (outside hs) rfl rfl rfl rfl id
  | init hat hi => exact pingPong_initStep hinv h hat hi
  | start hat hi => exact pingPong_startStep hinv h hat hi
  | stop hat hi => exact pingPong_stopStep hinv h hat hi
  | getbuf hat hi => exact pingPong_getbufStep h hat hi
  | record hat hi => exact pingPong_recordStep h hat hi

/-! ## The interrupt, the units and reset -/

theorem pingPong_irqChange {s t : State} (h : PingPong s) (hlose : ¬LosesEvent s) (hstep : IrqChange s t) :
    PingPong t := by
  cases hstep with
  | enter hf hh hp he => constructor <;> simp [enterHandler]
  | publish hf hh hp => constructor <;> simp
  | retarget hf hh hp hb =>
    have hnext : s.ch.next = s.ses.active := h.published (.inl hp)
    constructor <;> simp [hnext, TargetIs, wordAddr_zero]
  | misuse hf hh hp hb =>
    have hnext : s.ch.next = s.ses.active := h.published (.inl hp)
    constructor <;> simp [faulted, hp, hnext]
  | ack hf hh hp =>
    -- The engine is busy: with an idle one the acknowledge would lose the event of its transfer.
    have hb : s.te.busy = true := by
      by_contra hb
      exact hlose ⟨hh, hp, by simpa using hb⟩
    have htarget : TargetIs s s.ses.active := h.retargeted hp hb
    exact {
      published := by simp [leaveHandler]
      retargeted := by simp [leaveHandler]
      target := fun _ _ _ _ _ => htarget
      starting := fun _ _ _ hidle => absurd hb (by simpa [leaveHandler, teAck] using hidle)
      running := fun _ _ _ => .inl hb }

theorem pingPong_unitChange {s t : State} (hinv : BlockInv s) (h : PingPong s) (hstep : UnitChange s t) :
    PingPong t := by
  cases hstep with
  | word hf hen w e => exact { h with }
  | @copy hf hb w ws m hq hm =>
    obtain ⟨hlo, hhi, -⟩ := hinv.engine hb
    by_cases hlast : s.te.remain = 1#32
    · exact {
        published := h.published
        retargeted := by simp [hlast]
        target := by simp [hlast]
        starting := by simp [hlast]
        running := by simp [hlast] }
    · exact {
        published := h.published
        retargeted := fun hp _ => target_after_word hlo hhi (h.retargeted hp hb)
        target := fun hf hp _ hpend hw =>
          target_after_word hlo hhi (h.target hf hp hb (by simpa [hlast] using hpend) hw)
        starting := by simp [hlast]
        running := by simp [hlast] }

/-- After reset nothing runs and no session is active. -/
theorem pingPong_assertReset (s : State) : PingPong (assertReset s) :=
  pingPong_of_idle rfl rfl nofun nofun

/-- Settles O55: the changes of every agent keep the ping-pong, the acknowledge while the engine is busy again. -/
theorem pingPongKept : Obligations.PingPongKept := by
  intro s t hinv h hlose hstep
  obtain ⟨e, happ | ⟨hturn, hirq⟩ | hunit | ⟨-, rfl⟩⟩ := step_changes hstep
  · exact pingPong_appChange (blockInv_setEnv e hinv) (pingPong_setEnv e h) happ
  · exact pingPong_irqChange (pingPong_setEnv e h) (fun hl => hlose ⟨hl, hturn⟩) hirq
  · exact pingPong_unitChange (blockInv_setEnv e hinv) (pingPong_setEnv e h) hunit
  · exact pingPong_assertReset _

end Sys2Proof.Proofs
end

section
/-! SUPPORT. What only INIT or only a reset changes (spec/10_state.md rules R22 to R25, spec/20_memory.md rule R70,
spec/70_reset_and_hazards.md rule R281), and the handler's snapshot (spec/42_completion_handler.md rule R161). -/

namespace Sys2Proof.Proofs

open Sys2Proof Sys2Proof.Machine Sys2Proof.Laws

/-! ## What every agent but INIT leaves alone -/

/-- The parameters, the latched configuration, the buffers and the live regions are the same. -/
structure SetupFrame (s t : State) : Prop where
  par : t.par = s.par
  cfg : t.cfg = s.cfg
  buf0 : t.ses.buf0 = s.ses.buf0
  buf1 : t.ses.buf1 = s.ses.buf1
  live : t.live = s.live

/-- A step of APP keeps the setup, but for a micro-step of INIT. -/
theorem appChange_setup {s t : State} (h : AppChange s t) :
    SetupFrame s t ∨ AtMicroStep .init s.cmd.cpc.toNat s ∧ InitStep s s.cmd.cpc.toNat t := by
  cases h with
  | init hat hi => exact .inr ⟨hat, hi⟩
  | start hat hi => left; cases hi <;> constructor <;> rfl
  | stop hat hi => left; cases hi <;> constructor <;> rfl
  | getbuf hat hi => left; cases hi <;> constructor <;> rfl
  | record hat hi => left; cases hi <;> constructor <;> rfl
  | env | command | stage | fault | store => left; constructor <;> rfl

theorem irqChange_setup {s t : State} (h : IrqChange s t) : SetupFrame s t := by
  cases h <;> constructor <;> rfl

theorem unitChange_setup {s t : State} (h : UnitChange s t) : SetupFrame s t := by
  cases h <;> constructor <;> rfl

/-- Without a reset a step keeps the setup, but for a micro-step of INIT. -/
theorem step_setup {s t : State} (hr : NoReset s) (h : step s = .next t) :
    SetupFrame s t ∨ ∃ e, AtMicroStep .init s.cmd.cpc.toNat s ∧ InitStep (s.setEnv e) s.cmd.cpc.toNat t := by
  obtain ⟨e, h | ⟨-, h⟩ | h | ⟨hreset, -⟩⟩ := step_changes h
  · exact (appChange_setup h).imp (fun ⟨a, b, c, d, e⟩ => ⟨a, b, c, d, e⟩) fun h => ⟨e, h⟩
  · exact .inl (have ⟨a, b, c, d, e⟩ := irqChange_setup h; ⟨a, b, c, d, e⟩)
  · exact .inl (have ⟨a, b, c, d, e⟩ := unitChange_setup h; ⟨a, b, c, d, e⟩)
  · exact absurd hreset hr

/-- Settles O58: in a session a micro-step of INIT can only be its check, which faults. -/
theorem configFixedAfterInit : Obligations.ConfigFixedAfterInit := by
  intro s t hinv hs hr h
  obtain ⟨-, hcfg, h0, h1, -⟩ | ⟨e, hat, hi⟩ := step_setup hr h
  · exact ⟨hcfg, h0, h1⟩
  · have hk := init_at_check_of_session hinv hs (op_of_atMicroStep hat)
    cases hi with
    | rejected | accepted => exact ⟨rfl, rfl, rfl⟩
    | noBuf0 _ _ h | buf0 _ _ _ h | noBuf1 _ _ h | buf1 _ _ _ h | fill _ h | latch h | claim h | enable h | ready h =>
      omega

/-! ## The live regions -/

/-- An allowed region may join the live ones. -/
theorem liveOk_cons {s t : State} {a : Word} {n : Nat} (h : LiveOk s) (hn : 4 ≤ n)
    (ha : AllocAllows s.par s.live n a) (hpar : t.par = s.par) (hlive : t.live = { base := a, size := n } :: s.live) :
    LiveOk t := by
  obtain ⟨-, hlo, hhi, -, hdisj⟩ := ha
  obtain ⟨hall, hpair⟩ := h
  rw [LiveOk, hpar, hlive]
  exact ⟨List.forall_mem_cons.2 ⟨⟨hn, hlo, hhi⟩, hall⟩, List.pairwise_cons.2 ⟨hdisj, hpair⟩⟩

/-- Releasing a region leaves the others as they are. -/
theorem liveOk_filter {s t : State} {p : Region → Bool} (h : LiveOk s) (hpar : t.par = s.par)
    (hlive : t.live = s.live.filter p) : LiveOk t := by
  obtain ⟨hall, hpair⟩ := h
  rw [LiveOk, hpar, hlive]
  exact ⟨fun r hr => hall r (List.mem_of_mem_filter hr), hpair.filter p⟩

theorem liveOk_of_setup {s t : State} (h : LiveOk s) (hf : SetupFrame s t) : LiveOk t := by
  rw [LiveOk, hf.par, hf.live]
  exact h

theorem liveOk_initStep {s t : State} (hinv : BlockInv s) (h : LiveOk s) (hat : AtMicroStep .init s.cmd.cpc.toNat s)
    (hstep : InitStep s s.cmd.cpc.toNat t) : LiveOk t := by
  have count : s.cmd.cpc.toNat ≠ 0 → 4 ≤ 4 * s.stage.count.toNat := by
    intro hk
    rcases (commandProgress_init_iff (op_of_atMicroStep hat)).1 hinv.command with ⟨h0, -⟩ | ⟨-, -, -, hlo, -⟩
    · exact absurd h0 hk
    · omega
  cases hstep with
  | buf0 as d a hk ha | buf1 as d a hk ha => exact liveOk_cons h (count (by omega)) ha rfl rfl
  | noBuf1 as d hk => exact liveOk_filter h rfl rfl
  | rejected | accepted | noBuf0 | fill | latch | claim | enable | ready => exact h

/-- Settles O50: INIT's allocations add allowed regions and its failure releases one; nothing else changes them. -/
theorem liveRegionsStayDisjoint : Obligations.LiveRegionsStayDisjoint := by
  intro s t hinv hl h
  obtain ⟨e, h | ⟨-, h⟩ | h | ⟨-, rfl⟩⟩ := step_changes h
  · rcases appChange_setup h with hf | ⟨hat, hi⟩
    · exact liveOk_of_setup (s := s.setEnv e) hl hf
    · exact liveOk_initStep (blockInv_setEnv e hinv) hl hat hi
  · exact liveOk_of_setup (s := s.setEnv e) hl (irqChange_setup h)
  · exact liveOk_of_setup (s := s.setEnv e) hl (unitChange_setup h)
  · exact ⟨nofun, .nil⟩

/-! ## Sticky flags -/

/-- What no step but a reset undoes (70 R281). -/
structure Sticky (s t : State) : Prop where
  fault : s.flt.fault = true → t.flt.fault = true
  rxovf : s.sau.rxovf = true → t.sau.rxovf = true
  irqEn : s.irq.en = true → t.irq.en = true
  session : s.ses.sess ≠ .uninit → t.ses.sess ≠ .uninit

/-- A change that leaves these four alone. -/
theorem sticky_of_kept {s t : State} (hflt : t.flt = s.flt) (hovf : t.sau.rxovf = s.sau.rxovf)
    (hirq : t.irq.en = s.irq.en) (hsess : t.ses.sess = s.ses.sess) : Sticky s t := by
  constructor <;> simp [hflt, hovf, hirq, hsess]

theorem sticky_takeFault (c : Cause) (s : State) : Sticky s (takeFault c s) where
  fault := fun _ => takeFault_fault c s
  rxovf := id
  irqEn := id
  session := id

theorem sticky_appChange {s t : State} (h : AppChange s t) : Sticky s t := by
  cases h with
  | env | command | stage | store => exact sticky_of_kept rfl rfl rfl rfl
  | fault hs c => exact sticky_takeFault c s
  | init hat hi =>
    cases hi with
    | rejected => exact sticky_takeFault _ s
    | enable hk => exact { sticky_of_kept rfl rfl rfl rfl with irqEn := fun _ => rfl }
    | ready hk => exact { sticky_of_kept rfl rfl rfl rfl with session := fun _ => nofun }
    | accepted | noBuf0 | buf0 | noBuf1 | buf1 | fill | latch | claim => exact sticky_of_kept rfl rfl rfl rfl
  | start hat hi =>
    cases hi with
    | rejected | misuse => exact sticky_takeFault _ s
    | activate hk => exact { sticky_of_kept rfl rfl rfl rfl with session := fun _ => nofun }
    | accepted | arm | restart | enable => exact sticky_of_kept rfl rfl rfl rfl
  | stop hat hi =>
    cases hi with
    | rejected => exact sticky_takeFault _ s
    | abort hk => exact { sticky_of_kept rfl rfl rfl rfl with session := fun _ => nofun }
    | accepted | disable => exact sticky_of_kept rfl rfl rfl rfl
  | getbuf hat hi =>
    cases hi with
    | rejected => exact sticky_takeFault _ s
    | accepted | snapshot | wait | proceed | answer => exact sticky_of_kept rfl rfl rfl rfl
  | record hat hi =>
    cases hi with
    | rejected => exact sticky_takeFault _ s
    | accepted | restart | wait | store | finish => exact sticky_of_kept rfl rfl rfl rfl

theorem sticky_irqChange {s t : State} (h : IrqChange s t) : Sticky s t := by
  cases h with
  | misuse hf => rw [← takeFault_of_no_fault hf]; exact sticky_takeFault _ s
  | enter | publish | retarget | ack => exact sticky_of_kept rfl rfl rfl rfl

/-- A push never clears the overflow flag (40 R126). -/
theorem rxovf_sauPush {q : Sau} (h : q.rxovf = true) (d : Nat) (w : Word) : (sauPush d w q).rxovf = true := by
  unfold sauPush
  split
  · exact h
  · rfl

theorem sticky_unitChange {s t : State} (h : UnitChange s t) : Sticky s t := by
  cases h with
  | word hf hen w e => exact ⟨id, fun h => rxovf_sauPush h _ w, id, id⟩
  | copy => exact sticky_of_kept rfl rfl rfl rfl

/-- Settles O43: no change of any agent undoes them. -/
theorem stickyUntilReset : Obligations.StickyUntilReset := by
  intro s t hr h
  obtain ⟨e, h | ⟨-, h⟩ | h | ⟨hreset, -⟩⟩ := step_changes h
  · obtain ⟨a, b, c, d⟩ := sticky_appChange h; exact ⟨a, b, c, d⟩
  · obtain ⟨a, b, c, d⟩ := sticky_irqChange h; exact ⟨a, b, c, d⟩
  · obtain ⟨a, b, c, d⟩ := sticky_unitChange h; exact ⟨a, b, c, d⟩
  · exact absurd hreset hr

/-! ## The active flag and the handler's snapshot -/

/-- APP writes `active` at START's S1 and at INIT's I7 only (10 R25). -/
theorem appChange_active {s t : State} (h : AppChange s t) :
    t.ses.active = s.ses.active ∨
    (s.cmd.op = .start ∧ s.cmd.cpc.toNat = 1 ∧ t.ses.active = false ∧ t.ses.sess = .active) ∨
    (s.cmd.op = .init ∧ s.cmd.cpc.toNat = 7 ∧ t.ses.active = false ∧ t.ses.sess = .ready) := by
  cases h with
  | init hat hi =>
    cases hi with
    | ready hk => exact .inr (.inr ⟨op_of_atMicroStep hat, hk, rfl, rfl⟩)
    | _ => exact .inl rfl
  | start hat hi =>
    cases hi with
    | activate hk => exact .inr (.inl ⟨op_of_atMicroStep hat, hk, rfl, rfl⟩)
    | _ => exact .inl rfl
  | stop hat hi => left; cases hi <;> rfl
  | getbuf hat hi => left; cases hi <;> rfl
  | record hat hi => left; cases hi <;> rfl
  | env | command | stage | fault | store => exact .inl rfl

/-- Settles O57: APP's two writers, and `CH.PUBLISH` among the steps of the interrupt. -/
theorem activeHasThreeWriters : Obligations.ActiveHasThreeWriters := by
  intro s t hr h hne
  obtain ⟨e, h | ⟨-, h⟩ | h | ⟨hreset, -⟩⟩ := step_changes h
  · exact .inr ((appChange_active h).resolve_left hne)
  · cases h with
    | publish hf hh hp => exact .inl ⟨hh, hp, rfl, rfl⟩
    | enter | retarget | misuse | ack => exact absurd rfl hne
  · cases h <;> exact absurd rfl hne
  · exact absurd hreset hr

/-- APP leaves the handler's position and snapshot alone (42 R160). -/
theorem appChange_ch {s t : State} (h : AppChange s t) : t.ch = s.ch := by
  cases h with
  | init hat hi => exact (initStep_frame hi).ch
  | start hat hi => cases hi <;> rfl
  | stop hat hi => cases hi <;> rfl
  | getbuf hat hi => cases hi <;> rfl
  | record hat hi => cases hi <;> rfl
  | env | command | stage | fault | store => rfl

theorem unitChange_ch {s t : State} (h : UnitChange s t) : t.ch = s.ch := by
  cases h <;> rfl

/-- A step of APP is one of the environment alone, or the handler is not running (00 R8). -/
theorem appChange_outside_handler {s t : State} (h : AppChange s t) :
    (∃ e, t = s.setEnv e) ∨ s.ch.inHandler = false := by
  cases h with
  | env e => exact .inl ⟨e, rfl⟩
  | command hs | stage hs | fault hs | store hs => exact .inr hs.2.1
  | init hat | start hat | stop hat | getbuf hat | record hat => exact .inr hat.2.1

theorem handlerSnapshot_appChange {s t : State} (hinv : BlockInv s) (hsnap : HandlerSnapshot s) (h : AppChange s t) :
    HandlerSnapshot t := by
  obtain ⟨e, rfl⟩ | hh := appChange_outside_handler h
  · exact hsnap
  · simp [HandlerSnapshot, appChange_ch h, hinv.handler.1 hh]

theorem handlerSnapshot_irqChange {s t : State} (h : IrqChange s t) : HandlerSnapshot t := by
  cases h with
  | enter => exact fun _ => rfl
  | misuse hf hh hp => simp [HandlerSnapshot, faulted, hp]
  | publish | retarget | ack => nofun

theorem handlerSnapshot_unitChange {s t : State} (hsnap : HandlerSnapshot s) (h : UnitChange s t) :
    HandlerSnapshot t := by
  cases h <;> exact hsnap

/-- Settles O38: while the handler is at `CH.PUBLISH` APP has no step, and only the handler writes the snapshot. -/
theorem handlerSnapshotKept : Obligations.HandlerSnapshotKept := by
  intro s t hinv hsnap h
  obtain ⟨e, h | ⟨-, h⟩ | h | ⟨-, rfl⟩⟩ := step_changes h
  · exact handlerSnapshot_appChange (blockInv_setEnv e hinv) hsnap h
  · exact handlerSnapshot_irqChange h
  · exact handlerSnapshot_unitChange (s := s.setEnv e) hsnap h
  · nofun

/-- Settles O51: after reset nothing runs, no region is live and the handler is idle. -/
theorem invariantsAtReset : Obligations.InvariantsAtReset := fun p =>
  ⟨blockInv_resetOf p, pingPong_of_idle rfl rfl nofun nofun, ⟨nofun, .nil⟩, nofun⟩

end Sys2Proof.Proofs
end

section
/-! SUPPORT. Runs of one agent (spec/40_sau.md rules R126 to R128, spec/41_transfer_engine.md rule R146,
spec/42_completion_handler.md rules R160 to R166): words pushed, words copied, an invocation of the handler; and the two
hazards in which a session goes on no more (spec/70_reset_and_hazards.md rules R290 and R294). -/

namespace Sys2Proof.Proofs

open Sys2Proof Sys2Proof.Machine Sys2Proof.Laws

/-- Steps one after the other. -/
theorem stepTimes_succ {n : Nat} {s t : State} {o : Out} (h : step s = .next t) (hrest : stepTimes n t = o) :
    stepTimes (n + 1) s = o := by
  simp [stepTimes, h, hrest]

/-! ## The SAU -/

/-- The word drawn is the next of the stream, any word where the stream is not decided (40 R127, log 3). -/
theorem drawMic_spec (s : State) :
    (∀ x xs, s.env.mic = x :: xs → (drawMic s).1 = x) ∧
    (drawMic s).2 = s.setEnv { s.env with
      mic := s.env.mic.tail
      micI := s.env.micI + 1
      drawn := s.env.drawn + if s.env.mic.isEmpty = true then 1 else 0 } := by
  unfold drawMic
  split
  · next w ws h => simp [h]
  · next h => simp [h]

/-- A push with the phase complemented, written out (40 R126). -/
theorem flipPhase_sauPush (d : Nat) (w : Word) (q : Sau) :
    flipPhase (sauPush d w q) =
      if q.rxq.length < d then { q with rxq := q.rxq ++ [w], phase := !q.phase }
      else { q with rxovf := true, phase := !q.phase } := by
  unfold flipPhase sauPush
  split <;> rfl

/-- Settles O30: the word drawn is pushed or dropped, and the draw changes the environment. -/
theorem sauWordPushes : Obligations.SauWordPushes := by
  intro s hf
  obtain ⟨hword, hstate⟩ := drawMic_spec s
  refine ⟨(drawMic s).1, hword, ?_⟩
  rw [sauWord, if_neg (by simp [hf]), hstate, flipPhase_sauPush]
  rfl

/-- Before any fault the SAU completes a word: it goes to the queue, and the phase is complemented. -/
theorem exists_sauWord {s : State} (hf : s.flt.fault = false) :
    ∃ w e, sauWord s = .next { s with sau := flipPhase (sauPush s.par.rxqDepth w s.sau), env := e } := by
  rw [sauWord, if_neg (by simp [hf])]
  obtain ⟨e, he⟩ := drawMic_state s
  rw [he]
  exact ⟨_, e, rfl⟩

/-- On the turn of an enabled SAU a step completes a word; the turns to come are the rest. -/
theorem exists_step_sau {s : State} {turns : List Turn} (hf : s.flt.fault = false) (hen : s.sau.en = true)
    (hsched : s.env.sched = .sau :: turns) :
    ∃ t, step s = .next t ∧ t.flt = s.flt ∧ t.par = s.par ∧ t.sau.en = s.sau.en ∧ t.sau.phase = !s.sau.phase ∧
      t.env.sched = turns := by
  rw [step_of_sched hsched, actionOf_sau, if_pos hen, perform, sauWord, if_neg (by simp [hf])]
  refine ⟨_, rfl, ?_⟩
  rw [(drawMic_spec _).2]
  simp [flipPhase]

/-- After `k` turns of an enabled SAU the phase has been complemented `k` times. -/
theorem exists_stepTimes_sau (k : Nat) {s : State} {rest : List Turn} (hf : s.flt.fault = false)
    (hen : s.sau.en = true) (hsched : s.env.sched = List.replicate k .sau ++ rest) :
    ∃ t, stepTimes k s = .next t ∧ t.par = s.par ∧ t.sau.phase = (s.sau.phase ^^ decide (k % 2 = 1)) := by
  induction k generalizing s with
  | zero => exact ⟨s, rfl, rfl, by simp⟩
  | succ k ih =>
    obtain ⟨t, hstep, hflt, hpar, hen', hphase, hsched'⟩ := exists_step_sau hf hen hsched
    obtain ⟨u, hu, hpar', hphase'⟩ := ih (hflt ▸ hf) (hen'.trans hen) hsched'
    refine ⟨u, stepTimes_succ hstep hu, hpar'.trans hpar, ?_⟩
    rw [hphase', hphase]
    rcases Nat.mod_two_eq_zero_or_one k with h | h
    · simp [h, Nat.succ_mod_two_eq_one_iff.2 h]
    · simp [h, Nat.succ_mod_two_eq_zero_iff.2 h]

/-- The channels of consecutive words differ (44 R231). -/
theorem channelOfWord_succ (p : Params) (k : Nat) : channelOfWord p (k + 1) = otherChannel (channelOfWord p k) := by
  have hother : ∀ c, otherChannel (otherChannel c) = c := by intro c; cases c <;> rfl
  unfold channelOfWord channelOf
  rcases Nat.mod_two_eq_zero_or_one k with h | h
  · simp [h, Nat.succ_mod_two_eq_one_iff.2 h]
  · simp [h, Nat.succ_mod_two_eq_zero_iff.2 h, hother]

/-- Settles O60: the phase after `k` turns is the parity of `k`, and consecutive words differ in channel. -/
theorem channelsAlternate : Obligations.ChannelsAlternate := by
  intro s k rest hf hen hphase hsched
  obtain ⟨t, ht, hpar, hphase'⟩ := exists_stepTimes_sau k hf hen hsched
  rw [hphase, Bool.false_xor] at hphase'
  exact ⟨t, ht, hphase', by rw [hpar, hphase', channelOfWord], rfl, channelOfWord_succ s.par k⟩

/-! ## The Transfer Engine -/

/-- On the turn of a busy engine with a word in the queue, a step copies the word to a legal address. -/
theorem step_te {s : State} {turns : List Turn} {w : Word} {ws : List Word} {m : Memory} (hf : s.flt.fault = false)
    (hb : s.te.busy = true) (hsched : s.env.sched = .te :: turns) (hq : s.sau.rxq = w :: ws)
    (hm : memWrite s.par s.mem s.te.waddr .w4 w = some m) :
    step s = .next { s with
      sau := { s.sau with rxq := ws }
      mem := m
      te := { busy := if s.te.remain = 1#32 then false else true
              waddr := s.te.waddr + 4#32
              remain := s.te.remain - 1#32
              reload := s.te.reload }
      irq := { s.irq with pend := if s.te.remain = 1#32 then true else s.irq.pend }
      env := { s.env with sched := turns } } := by
  have hen : teEnabled s = true := teEnabled_eq_true_iff.2 ⟨hb, by simp [hq]⟩
  rw [step_of_sched hsched, actionOf_te, if_pos hen]
  exact teCopy_eq (s := { s with env := { s.env with sched := turns } }) hf hb hq hm

/-- `k` words into a transfer of `n` words to `a`, with `d` words to go: `d` turns of the engine copy `d` words. -/
theorem stepTimes_te (d : Nat) {s : State} {a : Word} {k n : Nat} {rest : List Turn} (hf : s.flt.fault = false)
    (hreg : RegionOk s.par a n) (hn : k + d = n) (haddr : s.te.waddr = wordAddr a k) (hd : s.te.remain.toNat = d)
    (hb : s.te.busy = decide (0 < d)) (hpend : d = 0 → s.irq.pend = true) (hq : d ≤ s.sau.rxq.length)
    (hsched : s.env.sched = List.replicate d .te ++ rest) :
    ∃ m, stepTimes d s = .next { s with
        sau := { s.sau with rxq := s.sau.rxq.drop d }
        mem := m
        te := { busy := false, waddr := wordAddr a n, remain := 0#32, reload := s.te.reload }
        irq := { s.irq with pend := true }
        env := { s.env with sched := rest } } ∧
      StoredFrom s.mem m (a.toNat + 4 * k) s.sau.rxq d := by
  induction d generalizing s k with
  | zero =>
    refine ⟨s.mem, ?_, storedFrom_zero _ _ _⟩
    have hremain : s.te.remain = 0#32 := BitVec.toNat_inj.1 hd
    have hrest : s.env.sched = rest := hsched
    have hb' : s.te.busy = false := hb
    rw [← hn, Nat.add_zero, ← haddr, ← hremain, ← hrest, ← hpend rfl, ← hb']
    rfl
  | succ d ih =>
    obtain ⟨w, ws, hws⟩ : ∃ w ws, s.sau.rxq = w :: ws := List.exists_cons_of_length_pos (by omega)
    obtain ⟨m1, hm1, hold, hout⟩ := exists_memWrite_word hreg (show k < n by omega) s.mem w
    rw [← haddr] at hm1
    have hstep := step_te hf (by simp [hb]) hsched hws hm1
    have hlast : s.te.remain = 1#32 ↔ d = 0 := by
      rw [← BitVec.toNat_inj, hd]
      simp
    have hd' : (s.te.remain - 1#32).toNat = d := by rw [toNat_sub_one (by omega)]; omega
    rw [hws] at hq ⊢
    obtain ⟨m, hm, hstored⟩ := ih (k := k + 1) hf (s := { s with
      sau := { s.sau with rxq := ws }
      mem := m1
      te := { busy := if s.te.remain = 1#32 then false else true
              waddr := s.te.waddr + 4#32
              remain := s.te.remain - 1#32
              reload := s.te.reload }
      irq := { s.irq with pend := if s.te.remain = 1#32 then true else s.irq.pend }
      env := { s.env with sched := List.replicate d .te ++ rest } })
      hreg (by omega) (by rw [haddr, wordAddr_succ]) hd' (by simp [hlast, Nat.pos_iff_ne_zero])
      (fun h0 => if_pos (hlast.2 h0)) (by simpa using hq) rfl
    exact ⟨m, stepTimes_succ hstep hm, StoredFrom.cons hold hout hstored⟩

/-- Settles O34: a whole transfer is one with no word copied yet. -/
theorem transferCopiesQueueInOrder : Obligations.TransferCopiesQueueInOrder := by
  intro s rest hf hb hlo hreg hq hsched
  obtain ⟨m, hm, hstored, hout⟩ := stepTimes_te s.te.remain.toNat (k := 0) hf hreg (Nat.zero_add _)
    (wordAddr_zero _).symm rfl (by simp [hb]; omega) (fun h => by omega) hq hsched
  exact ⟨m, hm, hstored, hout⟩

/-! ## The Completion Handler -/

/-- On the interrupt's turn, outside the handler with an event pending and enabled, a step enters it. -/
theorem step_enter {s : State} {turns : List Turn} (hf : s.flt.fault = false) (hh : s.ch.inHandler = false)
    (hp : s.irq.pend = true) (he : s.irq.en = true) (hsched : s.env.sched = .irq :: turns) :
    step s = .next { s with
      ch := { inHandler := true, hpc := .entered, next := !s.ses.active }
      env := { s.env with sched := turns, irqDefer := 0 } } := by
  rw [step_of_sched hsched, actionOf_irq_eq_chEnter_iff.2 ⟨hp, he, hh⟩]
  exact chEnter_of_no_fault (s := clearDefer { s with env := { s.env with sched := turns } }) hf

/-- On the interrupt's turn, inside the handler, a step is the one its position names. -/
theorem step_inHandler {s : State} {turns : List Turn} {p : Hpc} (hh : s.ch.inHandler = true) (hp : s.ch.hpc = p)
    (hsched : s.env.sched = .irq :: turns) :
    step s = perform (handlerAction p) { s with env := { s.env with sched := turns } } := by
  rw [step_of_sched hsched, actionOf_irq_inside hh, hp]

theorem step_publish {s : State} {turns : List Turn} (hf : s.flt.fault = false) (hh : s.ch.inHandler = true)
    (hp : s.ch.hpc = .entered) (hsched : s.env.sched = .irq :: turns) :
    step s = .next { s with
      ses := { s.ses with active := s.ch.next }
      rep := { s.rep with swapcnt := satSucc s.rep.swapcnt }
      ch := { s.ch with hpc := .published }
      env := { s.env with sched := turns } } :=
  (step_inHandler hh hp hsched).trans (chPublish_of_no_fault hf)

theorem step_retarget {s : State} {turns : List Turn} (hf : s.flt.fault = false) (hh : s.ch.inHandler = true)
    (hp : s.ch.hpc = .published) (hb : s.te.busy = false) (hsched : s.env.sched = .irq :: turns) :
    step s = .next { s with
      te := { s.te with busy := true, waddr := s.ses.buf s.ch.next, remain := s.te.reload }
      ch := { s.ch with hpc := .retargeted }
      env := { s.env with sched := turns } } :=
  (step_inHandler hh hp hsched).trans (chRetarget_of_idle hb hf)

theorem step_ack {s : State} {turns : List Turn} (hf : s.flt.fault = false) (hh : s.ch.inHandler = true)
    (hp : s.ch.hpc = .retargeted) (hsched : s.env.sched = .irq :: turns) :
    step s = .next { s with
      irq := { s.irq with pend := false }
      ch := { s.ch with inHandler := false, hpc := .idle }
      env := { s.env with sched := turns } } :=
  (step_inHandler hh hp hsched).trans (chAck_of_no_fault hf)

/-- Settles O37: entry, publish, retarget of the idle engine, acknowledge. -/
theorem handlerInvocationSwaps : Obligations.HandlerInvocationSwaps := by
  intro s rest hf hh hp he hb hsched
  have hbuf : s.ses.buf (!s.ses.active) = if s.ses.active = true then s.ses.buf0 else s.ses.buf1 := by
    cases s.ses.active <;> rfl
  rw [← satSucc_eq, ← hbuf]
  refine stepTimes_succ (step_enter hf hh hp he hsched) ?_
  refine stepTimes_succ (step_publish hf rfl rfl rfl) ?_
  refine stepTimes_succ (step_retarget hf rfl rfl hb rfl) ?_
  exact stepTimes_succ (step_ack hf rfl rfl rfl) rfl

/-! ## A lost event, and a wait without end -/

/-- With no event pending outside the handler, the interrupt has no step. -/
theorem actionOf_irq_of_not_pend {s : State} (hh : s.ch.inHandler = false) (hp : s.irq.pend = false) :
    actionOf .irq s = .idle := by
  simp [actionOf_irq_outside hh, irqLine, hp]

/-- An idle engine has no step. -/
theorem actionOf_te_of_idle {s : State} (hb : s.te.busy = false) : actionOf .te s = .idle := by
  simp [actionOf_te, teEnabled, hb]

/-- Settles O39: the acknowledge clears the event and leaves the handler, with the engine idle. -/
theorem lostCompletionEvent : Obligations.LostCompletionEvent := by
  rintro s turns ⟨hh, hpc, hb⟩ hf - hsched
  refine ⟨_, step_ack hf hh hpc hsched, rfl, rfl, hb, rfl, rfl, ?_, ?_⟩
  · exact actionOf_irq_of_not_pend rfl rfl
  · exact actionOf_te_of_idle hb

/-- While a GETBUF hangs only the SAU can have a step. -/
theorem actionOf_of_hung {s : State} (h : Hung s) {u : Turn} (hu : u ≠ .reset) :
    actionOf u s = .idle ∨ actionOf u s = .sauWord := by
  obtain ⟨hop, hk, ha, hb, hp, hh, hf⟩ := h
  cases u with
  | reset => exact absurd rfl hu
  | irq => exact .inl (actionOf_irq_of_not_pend hh hp)
  | te => exact .inl (actionOf_te_of_idle hb)
  | sau =>
    rw [actionOf_sau]
    split
    · exact .inr rfl
    · exact .inl rfl
  | app =>
    have hwait : appWaiting s = true := by simp [appWaiting, hop, hk, ha]
    have hi : inProgress s.cmd = some (.getbuf s.cmd.b) := by simp [inProgress, hop]
    simp [actionOf, appAction, hf, hi, hwait, hh]

/-- Settles O40: no agent's step ends the wait, raises an event or stops. -/
theorem blockingGetbufHangs : Obligations.BlockingGetbufHangs := by
  intro s h hr
  obtain ⟨e, he⟩ := takeTurn_state s
  rw [step_eq, he]
  have h' : Hung (s.setEnv e) := h
  cases ht : (takeTurn s).1 with
  | none => exact ⟨_, rfl, h'⟩
  | some u =>
    have hu : u ≠ .reset := by
      rintro rfl
      exact hr (takeTurn_reset ht)
    simp only
    rcases actionOf_of_hung h' hu with ha | ha
    · rw [ha]
      exact ⟨_, rfl, h'⟩
    · rw [ha]
      obtain ⟨-, -, -, -, -, -, hf⟩ := id h'
      obtain ⟨w, e', hw⟩ := exists_sauWord (s := s.setEnv e) hf
      exact ⟨_, hw, h'⟩

end Sys2Proof.Proofs
end

section
/-! SUPPORT. The buffers: the host's loads and stores (spec/44_host_access_and_sample_format.md rule R228), and where the
engine writes (spec/41_transfer_engine.md rule R146, spec/10_state.md rules R51 and R52). -/

namespace Sys2Proof.Proofs

open Sys2Proof Sys2Proof.Machine Sys2Proof.Laws

/-! ## The host's loads and stores -/

/-- An aligned host access inside a buffer is carried out when the host may act. -/
theorem hostAccess_open {s : State} {a : Word} {w : Width} (hs : HostMayAct s) (hal : a.toNat % w.bytes = 0)
    (hin : inBuffers s a w.bytes = true) (k : State → Out) : hostAccess a w s k = k s := by
  rw [hostAccess, hostGate_open hs, if_neg (not_not.2 hal), if_pos hin]

/-- A misaligned host access is refused (log 15). -/
theorem hostAccess_misaligned {s : State} {a : Word} {w : Width} (hs : HostMayAct s) (hal : a.toNat % w.bytes ≠ 0)
    (k : State → Out) : hostAccess a w s k = .refused .hostMisaligned := by
  rw [hostAccess, hostGate_open hs, if_pos hal]

/-- An aligned host access outside both buffers is refused (log 15). -/
theorem hostAccess_outside {s : State} {a : Word} {w : Width} (hs : HostMayAct s) (hal : a.toNat % w.bytes = 0)
    (hout : inBuffers s a w.bytes = false) (k : State → Out) : hostAccess a w s k = .refused .hostOutsideBuffers := by
  rw [hostAccess, hostGate_open hs, if_neg (not_not.2 hal), if_neg (by simp [hout])]

/-- Inside a buffer, by its byte range (10 R24). -/
theorem inBuffer_iff {s : State} {i : Bool} {a : Word} {n : Nat} :
    inBuffer s i a n = true ↔
      (s.ses.buf i).toNat ≤ a.toNat ∧ a.toNat + n ≤ (s.ses.buf i).toNat + 4 * s.cfg.n.toNat := by
  simp [inBuffer]

/-- Inside one of the two buffers of a session (10 R24). -/
theorem inBuffers_iff {s : State} {a : Word} {n : Nat} :
    inBuffers s a n = true ↔ s.ses.sess ≠ .uninit ∧ ∃ i, inBuffer s i a n = true := by
  simp [inBuffers]

/-- Each buffer is a region. -/
theorem regionOk_buf {s : State} {n : Nat} (h : BuffersOk s n) (i : Bool) : RegionOk s.par (s.ses.buf i) n := by
  obtain ⟨-, -, h0, h1, -⟩ := h
  cases i
  · exact h0
  · exact h1

/-- An aligned access inside a region is legal (20 R62). -/
theorem accessOk_of_region {p : Params} {a b : Word} {n w : Nat} (h : RegionOk p b n) (hal : a.toNat % w = 0)
    (hlo : b.toNat ≤ a.toNat) (hhi : a.toNat + w ≤ b.toNat + 4 * n) : accessOk p a w = true := by
  obtain ⟨-, hdlo, hdhi, -⟩ := h
  exact accessOk_iff.2 ⟨hal, by omega, by omega⟩

/-- Settles O48: an access inside a buffer is legal in data memory; the other two are refused before it. -/
theorem hostBufferAccess : Obligations.HostBufferAccess := by
  intro s a w v hs
  refine ⟨fun i hsess hbuf hal hlo hhi => ?inside, fun hal => ?misaligned, fun hal hout => ?outside⟩
  case inside =>
    have hin : inBuffers s a w.bytes = true := inBuffers_iff.2 ⟨hsess, i, inBuffer_iff.2 ⟨hlo, hhi⟩⟩
    have hok := accessOk_of_region (regionOk_buf hbuf i) hal hlo hhi
    have hload : memRead s.par s.mem a w = some (s.mem.load a.toNat w.bytes) := memRead_eq_some.2 ⟨hok, rfl⟩
    have hstore : memWrite s.par s.mem a w v = some (s.mem.store a.toNat v w.bytes) := memWrite_eq_some.2 ⟨hok, rfl⟩
    refine ⟨?_, _, ?_, fun k hk => read?_store_byte _ _ v hk, fun x hx => read?_store_outside _ _ v _ x hx⟩
    · rw [hostLoad, hostAccess_open hs hal hin, hload]
      rfl
    · rw [hostStore, hostAccess_open hs hal hin, hstore]
      rfl
  case misaligned => exact ⟨hostAccess_misaligned hs hal _, hostAccess_misaligned hs hal _⟩
  case outside =>
    have hin : inBuffers s a w.bytes = false := by
      rw [← Bool.not_eq_true, inBuffers_iff]
      rintro ⟨hsess, i, hi⟩
      obtain ⟨hlo, hhi⟩ := inBuffer_iff.1 hi
      rcases hout with hu | hout
      · exact hsess hu
      · have := hout i
        omega
    exact ⟨hostAccess_outside hs hal hin _, hostAccess_outside hs hal hin _⟩

/-! ## Where the engine writes -/

/-- Bytes that stay outside a part of a range stay outside the range. -/
theorem sameOutside_mono {m m' : Memory} {a b n k : Nat} (h : SameOutside m m' a n) (hlo : b ≤ a)
    (hhi : a + n ≤ b + k) : SameOutside m m' b k :=
  fun x hx => h x (by omega)

/-- A busy engine is at the word of its buffer that its transfer has reached (41 R146). -/
theorem engine_at_word {s : State} {i : Bool} (h : BlockInv s) (hb : s.te.busy = true) (ht : TargetIs s i) :
    RegionOk s.par (s.ses.buf i) s.cfg.n.toNat ∧ 1 ≤ s.te.remain.toNat ∧ s.te.remain.toNat ≤ s.cfg.n.toNat ∧
    s.te.waddr = wordAddr (s.ses.buf i) (s.cfg.n.toNat - s.te.remain.toNat) ∧
    s.te.waddr.toNat = (s.ses.buf i).toNat + 4 * (s.cfg.n.toNat - s.te.remain.toNat) := by
  obtain ⟨hlo, hhi, -⟩ := h.engine hb
  have hreload := h.armed (.inl hb)
  rw [TargetIs, hreload] at ht
  rw [hreload] at hhi
  have hreg := regionOk_buf (h.buffers (session_of_running h (.inl hb))) i
  exact ⟨hreg, hlo, hhi, ht, ht ▸ wordAddr_toNat hreg (by omega)⟩

/-- Settles O35: the address is a word of a buffer, so the write is legal and stays in it. -/
theorem engineStaysInBuffer : Obligations.EngineStaysInBuffer := by
  intro s h hf hb hq
  obtain ⟨-, -, i, ht⟩ := h.engine hb
  obtain ⟨hreg, hlo, hhi, haddr, hword⟩ := engine_at_word h hb ht
  obtain ⟨w, ws, hws⟩ := List.exists_cons_of_ne_nil hq
  obtain ⟨m, hm, -, hout⟩ :=
    exists_memWrite_word hreg (show s.cfg.n.toNat - s.te.remain.toNat < s.cfg.n.toNat by omega) s.mem w
  rw [← haddr] at hm
  rw [← hword] at hout
  exact ⟨i, _, hword, hlo, hhi, teCopy_eq hf hb hws hm, rfl, rfl, hout, sameOutside_mono hout (by omega) (by omega)⟩

/-- `TE.COPY` changes no byte outside the word at the engine's address (41 R145). -/
theorem sameOutside_of_teCopy {s t : State} (h : teCopy s = .next t) : SameOutside s.mem t.mem s.te.waddr.toNat 4 := by
  cases hen : teEnabled s with
  | true =>
    have hf : s.flt.fault = false := by
      by_contra hf
      rw [teCopy, if_pos (by simpa using hf)] at h
      cases h
    cases unitChange_of_teCopy hf hen h with
    | word => exact fun _ _ => rfl
    | copy _ _ m hq hm => exact sameOutside_of_memWrite hm
  | false =>
    have ht : t = s := by
      unfold teCopy at h
      split at h
      · cases h
      split at h
      · next hb =>
        have hd : dreq s = false := by simpa [teEnabled, hb] using hen
        rw [sauPop_eq_none.2 hd] at h
        cases h
        rfl
      · cases h
        rfl
    exact fun _ _ => by rw [ht]

/-- The two buffers share no byte (10 R51 (b)). -/
theorem buffers_disjoint {s : State} {n : Nat} (h : BuffersOk s n) (i : Bool) :
    (s.ses.buf i).toNat + 4 * n ≤ (s.ses.buf (!i)).toNat ∨ (s.ses.buf (!i)).toNat + 4 * n ≤ (s.ses.buf i).toNat := by
  obtain ⟨-, -, -, -, hdisj⟩ := h
  cases i
  · exact hdisj
  · exact hdisj.symm

/-- Settles O56: the engine is armed at the active buffer, which shares no byte with the other. -/
theorem engineWritesActiveBuffer : Obligations.EngineWritesActiveBuffer := by
  intro s h hpp hs hop hh hp hf
  have hpc : s.ch.hpc = .idle := h.handler.1 hh
  have hnot : ¬(s.cmd.op = .start ∧ s.cmd.cpc.toNat = 2) := fun hw => hop hw.1
  have hb : s.te.busy = true := (hpp.running hpc hs hnot).resolve_right (by simp [hp])
  obtain ⟨-, hlo, hhi, -, hword⟩ := engine_at_word h hb (hpp.target hf hpc hb hp hnot)
  have hdisj := buffers_disjoint (h.buffers (by simp [hs])) s.ses.active
  refine ⟨hb, by omega, by omega, by omega, fun t ht x hx0 hx1 => ?_⟩
  exact sameOutside_of_teCopy ht x (by omega)

/-! ## The spec's own invariant -/

/-- The bounds of the micro-step index, command by command (10 R26, log 16). -/
theorem cpc_bounds {s : State} (h : BlockInv s) :
    s.cmd.cpc.toNat ≤ 7 ∧ (s.cmd.op = .none → s.cmd.cpc.toNat = 0) ∧ (s.cmd.op = .start → s.cmd.cpc.toNat ≤ 4) ∧
    (s.cmd.op = .stop ∨ s.cmd.op = .getbuf ∨ s.cmd.op = .record → s.cmd.cpc.toNat ≤ s.cfg.n.toNat + 2) ∧
    (s.cfg.n.toNat + 2 < s.cmd.cpc.toNat →
      s.cmd.op = .init ∨ s.cmd.op = .start ∧ s.cmd.cpc.toNat = 4 ∧ s.cfg.n.toNat = 1) := by
  have count : s.ses.sess ≠ .uninit → 1 ≤ s.cfg.n.toNat := fun hs => (h.buffers hs).1
  have hcmd := h.command
  cases hop : s.cmd.op <;> simp only [CommandProgress, hop] at hcmd
  case none => simp [hcmd]
  case init =>
    rcases hcmd with ⟨h0, -⟩ | ⟨-, h7, -⟩
    · simp [h0]
    · simpa using h7
  case start =>
    obtain ⟨hk, -, ha⟩ := hcmd
    have hn : 2 ≤ s.cmd.cpc.toNat → 1 ≤ s.cfg.n.toNat := fun h2 => count (by simp [ha h2])
    simp; omega
  case stop => obtain ⟨hk, -⟩ := hcmd; simp; omega
  case getbuf =>
    obtain ⟨hk, hs⟩ := hcmd
    have hn : 1 ≤ s.cmd.cpc.toNat → 1 ≤ s.cfg.n.toNat := fun h1 => count (hs h1)
    simp; omega
  case record =>
    obtain ⟨hk, hr, -⟩ := hcmd
    have hn : 1 ≤ s.cmd.cpc.toNat → 1 ≤ s.cfg.n.toNat := fun h1 => count (by simp [hr h1])
    simp; omega

/-- Settles O53: the clauses are read off the invariant, the bounds off the command's progress. -/
theorem blockInvGivesRuleFiftyOne : Obligations.BlockInvGivesRuleFiftyOne := by
  intro s h
  obtain ⟨h7, hnone, hstart, hother, hpast⟩ := cpc_bounds h
  refine ⟨fun hop => ⟨fun hu => ?before, fun hs => ?session, h.queue, fun hb => ?engine, h.handler.1⟩, h7, h.counter.1,
    hnone, hstart, hother, hpast⟩
  case before =>
    obtain ⟨hb, hen, -, -, hoff⟩ := h.uninit hu
    obtain ⟨he, h0, h1⟩ := hoff hop
    exact ⟨he, hb, hen, h0, h1⟩
  case session =>
    have hbuf := h.buffers hs
    obtain ⟨hlo, hhi, ⟨hal0, -⟩, ⟨hal1, -⟩, hdisj⟩ := id hbuf
    refine ⟨hal0, hal1, hdisj, fun i => ?_, hlo, hhi⟩
    obtain ⟨-, hdlo, hdhi, -⟩ := regionOk_buf hbuf i
    exact ⟨hdlo, hdhi⟩
  case engine =>
    obtain ⟨hlo, hhi, -⟩ := h.engine hb
    exact ⟨hlo, hhi, h.armed (.inl hb)⟩

end Sys2Proof.Proofs
end

section
/-! SUPPORT. Where the machine can stop in the states of the block's invariant (spec/60_exceptions.md rule R243,
spec/20_memory.md rules R64 and R66, spec/93_implementation_defined.md U17). -/

namespace Sys2Proof.Proofs

open Sys2Proof Sys2Proof.Machine Sys2Proof.Laws

/-- An outcome from `s` that stops only where the spec gives no behaviour: after a recorded fault, or on a host access
that is the platform's, misaligned or outside the buffers. -/
def NamedStop (s : State) : Out → Prop
  | .next _ => True
  | .fault r => r = .afterFault ∧ s.flt.fault = true
  | .refused r => r = .outsideWindow ∨ r = .hostMisaligned ∨ r = .hostOutsideBuffers

theorem namedStop_of_next {s t : State} {o : Out} (h : o = .next t) : NamedStop s o := by
  rw [h]
  trivial

/-- After a recorded fault the stop is the one the spec leaves open (60 R243). -/
theorem namedStop_of_afterFault {s : State} {o : Out} (hf : s.flt.fault = true) (h : o = .fault .afterFault) :
    NamedStop s o := by
  rw [h]
  exact ⟨rfl, hf⟩

/-! ## The host's operations -/

/-- Behind the gate the host's operation has to stop by name only when the host may act. -/
theorem namedStop_hostGate {s : State} {k : State → Out} (hs : s.flt.fault = true ∨ HostMayAct s)
    (hk : NamedStop s (k s)) : NamedStop s (hostGate s k) := by
  rcases hs with hf | hs
  · exact namedStop_of_afterFault hf (hostGate_of_fault hf _)
  · rw [hostGate_open hs]
    exact hk

/-- An instruction of the host runs when the host may act. -/
theorem exists_exec_of_hostMayAct {s : State} (hs : HostMayAct s) (i : Instr) : ∃ t, exec i s = .next t := by
  cases i with
  | init | start | stop | getbuf _ | record => exact ⟨_, exec_of_command hs rfl⟩
  | rdStatus => exact ⟨_, exec_rdStatus (.inl hs)⟩
  | wrCmd v => exact ⟨_, exec_wrCmd_open hs v⟩
  | wrCfgUnit v | wrCfgDpin v | wrCfgCpin v | wrCfgFreq v | wrCfgCount v => exact ⟨_, writeStage_open hs _⟩
  | rdCfgUnit | rdCfgDpin | rdCfgCpin | rdCfgFreq | rdCfgCount | rdResult | rdBuf0Addr | rdBuf1Addr | rdSwapcnt
  | rdTeWaddr | rdTeRemain | rdRxqLevel => exact ⟨_, readView_open hs _⟩

/-- An instruction of the host stops after a fault only. -/
theorem namedStop_exec {s : State} (hs : s.flt.fault = true ∨ HostMayAct s) (i : Instr) : NamedStop s (exec i s) := by
  rcases hs with hf | hs
  · by_cases hi : i = .rdStatus
    · rw [hi]
      exact namedStop_of_next (exec_rdStatus (.inr hf))
    · exact namedStop_of_afterFault hf (exec_of_fault hf hi)
  · obtain ⟨t, ht⟩ := exists_exec_of_hostMayAct hs i
    exact namedStop_of_next ht

/-- A rejected encoding faults by its cause, or lies outside the window. -/
theorem namedStop_reject {s : State} (hs : s.flt.fault = true ∨ HostMayAct s) (r : Reject) :
    NamedStop s (reject r s) := by
  unfold reject
  split
  · exact .inl rfl
  all_goals exact namedStop_hostGate hs trivial

theorem namedStop_runEncoding {s : State} (hs : s.flt.fault = true ∨ HostMayAct s) (e : Encoding) :
    NamedStop s (runEncoding e s) := by
  unfold runEncoding
  split
  · exact namedStop_exec hs _
  · exact namedStop_reject hs _

/-- A host access to memory is carried out or refused by name. -/
theorem namedStop_hostAccess {s : State} {k : State → Out} (hs : s.flt.fault = true ∨ HostMayAct s) (a : Word)
    (w : Width) (hk : NamedStop s (k s)) : NamedStop s (hostAccess a w s k) := by
  refine namedStop_hostGate hs ?_
  split
  · exact .inr (.inl rfl)
  split
  · exact hk
  · exact .inr (.inr rfl)

theorem namedStop_hostLoad {s : State} (hs : s.flt.fault = true ∨ HostMayAct s) (a : Word) (w : Width) :
    NamedStop s (hostLoad a w s) := by
  refine namedStop_hostAccess hs a w ?_
  split
  · exact .inr (.inr rfl)
  · trivial

theorem namedStop_hostStore {s : State} (hs : s.flt.fault = true ∨ HostMayAct s) (a : Word) (w : Width) (v : Word) :
    NamedStop s (hostStore a w v s) := by
  refine namedStop_hostAccess hs a w ?_
  split
  · exact .inr (.inr rfl)
  · trivial

theorem namedStop_hostAction {s : State} (hs : s.flt.fault = true ∨ HostMayAct s) :
    NamedStop s (perform (hostAction s) s) := by
  have hs' : (countDefer (dropHostOp s)).flt.fault = true ∨ HostMayAct (countDefer (dropHostOp s)) := hs
  obtain h | ⟨op, -, -, h⟩ := hostAction_cases s
  · rw [h]
    trivial
  · rw [h]
    cases op with
    | bus t => exact namedStop_runEncoding hs' (.bus t)
    | cmd w => exact namedStop_runEncoding hs' (.cmdWord w)
    | load a w => exact namedStop_hostLoad hs' a w
    | store a w v => exact namedStop_hostStore hs' a w v

/-! ## The micro-steps -/

/-- A check step answers a next state. -/
theorem exists_checkStep (cause : Option Cause) (k : Nat) (s : State) : ∃ t, checkStep cause k s = .next t := by
  obtain ⟨x, -, h⟩ | ⟨-, h⟩ := checkStep_cases cause k s
  · exact ⟨_, h⟩
  · exact ⟨_, h⟩

/-- INIT has the micro-steps 0 to 7, and its zero fill succeeds where both buffers are regions (43 R185). -/
theorem exists_initMicro {s : State} (hk : s.cmd.cpc.toNat ≤ 7)
    (hfill : s.cmd.cpc.toNat = 3 → BuffersOk s s.stage.count.toNat) : ∃ t, initMicro s.cmd.cpc.toNat s = .next t := by
  generalize s.cmd.cpc.toNat = k at hk hfill
  match k with
  | 0 => exact exists_checkStep _ _ s
  | 1 =>
    obtain ⟨as, d, h | ⟨a, h, -⟩⟩ := alloc_cases (4 * s.stage.count.toNat) s <;>
      exact ⟨_, by rw [initMicro, initI1, h]⟩
  | 2 =>
    obtain ⟨as, d, h | ⟨a, h, -⟩⟩ := alloc_cases (4 * s.stage.count.toNat) s <;>
      exact ⟨_, by rw [initMicro, initI2, h]⟩
  | 3 =>
    obtain ⟨-, -, h0, h1, -⟩ := hfill rfl
    obtain ⟨m, hm⟩ := zeroFill_regions h0 h1 s.mem _ le_rfl
    exact ⟨_, by rw [initMicro, initI3, hm]⟩
  | 4 | 5 | 6 | 7 => exact ⟨_, rfl⟩
  | _ + 8 => omega

theorem exists_startMicro {s : State} {k : Nat} (hk : k ≤ 4) : ∃ t, startMicro k s = .next t := by
  match k with
  | 0 => exact exists_checkStep _ _ s
  | 2 =>
    cases hb : s.te.busy with
    | false => exact ⟨_, by rw [startMicro, startS2, teArm_of_idle hb]⟩
    | true => exact ⟨_, by rw [startMicro, startS2, teArm_of_busy hb]⟩
  | 1 | 3 | 4 => exact ⟨_, rfl⟩
  | _ + 5 => omega

theorem exists_stopMicro {s : State} {k : Nat} (hk : k ≤ 2) : ∃ t, stopMicro k s = .next t := by
  match k with
  | 0 => exact exists_checkStep _ _ s
  | 1 | 2 => exact ⟨_, rfl⟩
  | _ + 3 => omega

theorem exists_getbufMicro {s : State} {k : Nat} (hk : k ≤ 3) : ∃ t, getbufMicro k s = .next t := by
  match k with
  | 0 => exact exists_checkStep _ _ s
  | 2 =>
    rw [getbufMicro, getbufG2]
    split <;> exact ⟨_, rfl⟩
  | 1 | 3 => exact ⟨_, rfl⟩
  | _ + 4 => omega

/-- RECORD has the micro-steps 0 to 3, and its store succeeds in a buffer that is a region (43 R198). -/
theorem exists_recordMicro {s : State} (hk : s.cmd.cpc.toNat ≤ 3)
    (hstore : s.cmd.cpc.toNat = 2 → RegionOk s.par s.ses.buf0 s.cfg.n.toNat ∧ s.cmd.recK.toNat < s.cfg.n.toNat) :
    ∃ t, recordMicro s.cmd.cpc.toNat s = .next t := by
  generalize s.cmd.cpc.toNat = k at hk hstore
  match k with
  | 0 => exact exists_checkStep _ _ s
  | 1 => exact ⟨_, recordK1_eq s⟩
  | 2 =>
    obtain ⟨hreg, hlt⟩ := hstore rfl
    rw [recordMicro, recordK2]
    split
    · exact ⟨_, rfl⟩
    · next w u hp =>
      obtain ⟨ws, -, rfl⟩ := sauPop_eq_some.1 hp
      obtain ⟨m, hm, -⟩ := exists_memWrite_word hreg hlt s.mem w
      simp only [setSau_par, setSau_mem, setSau_ses, setSau_cmd, hm]
      exact ⟨_, rfl⟩
  | 3 => exact ⟨_, rfl⟩
  | _ + 4 => omega

/-- In the states of the invariant the command in progress has its next micro-step, and it succeeds. -/
theorem exists_microNext {s : State} (h : BlockInv s) : ∃ t, microNext s = .next t := by
  have hcmd := h.command
  unfold microNext
  cases hop : s.cmd.op <;> simp only [CommandProgress, hop] at hcmd
  case none => exact ⟨s, rfl⟩
  case init =>
    refine exists_initMicro ?_ fun h3 => ?_
    · rcases hcmd with ⟨h0, -⟩ | ⟨-, h7, -⟩ <;> omega
    · rcases hcmd with ⟨h0, -⟩ | ⟨-, -, -, -, -, -, -, -, hbuf, -⟩
      · omega
      · exact hbuf (by omega)
  case start => exact exists_startMicro hcmd.1
  case stop => exact exists_stopMicro hcmd.1
  case getbuf => exact exists_getbufMicro hcmd.1
  case record =>
    obtain ⟨hk, hr, hlt⟩ := hcmd
    refine exists_recordMicro hk fun h2 => ⟨?_, hlt h2⟩
    have hs : s.ses.sess = .ready := hr (by omega)
    exact regionOk_buf (h.buffers (by simp [hs])) false

/-! ## Every agent's step -/

/-- APP's action after a fault is the host's (60 R243). -/
theorem actionOf_app_of_fault {s : State} (hf : s.flt.fault = true) : actionOf .app s = hostAction s := by
  simp [actionOf, appAction, hf]

/-- Before a fault APP has no step, a micro-step of the command in progress, or the host's action. -/
theorem actionOf_app_cases {s : State} (hf : s.flt.fault = false) :
    actionOf .app s = .idle ∨ (∃ i, actionOf .app s = .micro i) ∨ HostMayAct s ∧ actionOf .app s = hostAction s := by
  simp only [actionOf, appAction, hf, Bool.false_eq_true, if_false]
  split
  · exact .inl rfl
  next hh =>
    split
    · split
      · exact .inl rfl
      · exact .inr (.inl ⟨_, rfl⟩)
    · next hi =>
      have hin : s.ch.inHandler = false := by
        rw [Bool.or_eq_true, not_or, Bool.not_eq_true] at hh
        exact hh.1
      exact .inr (.inr ⟨⟨hf, hin, inProgress_eq_none_iff.1 hi⟩, rfl⟩)

theorem namedStop_app {s : State} (h : BlockInv s) : NamedStop s (perform (actionOf .app s) s) := by
  cases hf : s.flt.fault with
  | true =>
    rw [actionOf_app_of_fault hf]
    exact namedStop_hostAction (.inl hf)
  | false =>
    obtain ha | ⟨i, ha⟩ | ⟨hs, ha⟩ := actionOf_app_cases hf
    · rw [ha]
      trivial
    · obtain ⟨hh, hi, -⟩ := of_actionOf_app_micro hf ha
      obtain ⟨t, ht⟩ := exists_microNext (s := countDefer s) (blockInv_setEnv _ h)
      rw [ha]
      exact namedStop_of_next ((exec_inProgress (s := countDefer s) hi hf hh).trans ht)
    · rw [ha]
      exact namedStop_hostAction (.inr hs)

/-- After a fault the interrupt's step stops (60 R243). -/
theorem perform_irq_of_fault {s : State} (hf : s.flt.fault = true) (hen : actionOf .irq s ≠ .idle) :
    perform (actionOf .irq s) s = .fault .afterFault := by
  obtain ⟨-, -, -, -, hpublish, hretarget, hack⟩ := (faultMechanism s).2 hf
  rcases actionOf_irq_ne_idle_iff.1 hen with ⟨hp, he, hh⟩ | ⟨hh, hpc⟩
  · rw [actionOf_irq_eq_chEnter_iff.2 ⟨hp, he, hh⟩]
    exact if_pos (show (clearDefer s).flt.fault = true from hf)
  · rw [actionOf_irq_inside hh]
    cases hat : s.ch.hpc with
    | idle => exact absurd hat hpc
    | entered => exact hpublish
    | published => exact hretarget
    | retargeted => exact hack

/-- Before a fault the interrupt's step is a step of the handler (42 R160). -/
theorem perform_irq_of_no_fault {s : State} (hf : s.flt.fault = false) (hen : actionOf .irq s ≠ .idle) :
    ∃ e t, perform (actionOf .irq s) s = .next t ∧ IrqChange (s.setEnv e) t := by
  rcases actionOf_irq_ne_idle_iff.1 hen with ⟨hp, he, hh⟩ | ⟨hh, hpc⟩
  · rw [actionOf_irq_eq_chEnter_iff.2 ⟨hp, he, hh⟩]
    exact ⟨(clearDefer s).env, _, chEnter_of_no_fault (s := clearDefer s) hf, .enter hf hh hp he⟩
  · rw [actionOf_irq_inside hh]
    refine ⟨s.env, ?_⟩
    cases hat : s.ch.hpc with
    | idle => exact absurd hat hpc
    | entered => exact ⟨_, chPublish_of_no_fault hf, .publish hf hh hat⟩
    | published =>
      cases hb : s.te.busy with
      | false => exact ⟨_, chRetarget_of_idle hb hf, .retarget hf hh hat hb⟩
      | true => exact ⟨_, chRetarget_of_busy hb hf, .misuse hf hh hat hb⟩
    | retargeted => exact ⟨_, chAck_of_no_fault hf, .ack hf hh hat⟩

/-- A step of the interrupt is taken, or stops after a fault. -/
theorem namedStop_irq (s : State) : NamedStop s (perform (actionOf .irq s) s) := by
  by_cases hen : actionOf .irq s = .idle
  · rw [hen]
    trivial
  · cases hf : s.flt.fault with
    | true => exact namedStop_of_afterFault hf (perform_irq_of_fault hf hen)
    | false =>
      obtain ⟨-, t, ht, -⟩ := perform_irq_of_no_fault hf hen
      exact namedStop_of_next ht

theorem namedStop_sau (s : State) : NamedStop s (perform (actionOf .sau s) s) := by
  rw [actionOf_sau]
  split
  · cases hf : s.flt.fault with
    | true => exact namedStop_of_afterFault hf (if_pos hf)
    | false =>
      obtain ⟨_, _, ht⟩ := exists_sauWord hf
      exact namedStop_of_next ht
  · trivial

/-- The engine's write is always to a word of a buffer (41 R146), so it succeeds. -/
theorem namedStop_te {s : State} (h : BlockInv s) : NamedStop s (perform (actionOf .te s) s) := by
  rw [actionOf_te]
  split
  · next hen =>
    cases hf : s.flt.fault with
    | true => exact namedStop_of_afterFault hf (if_pos hf)
    | false =>
      obtain ⟨hb, hq⟩ := teEnabled_eq_true_iff.1 hen
      obtain ⟨-, t, -, -, -, ht, -⟩ := engineStaysInBuffer s h hf hb (List.length_pos_iff.1 hq)
      exact namedStop_of_next ht
  · trivial

theorem namedStop_perform {s : State} (h : BlockInv s) (u : Turn) : NamedStop s (perform (actionOf u s) s) := by
  cases u with
  | app => exact namedStop_app h
  | irq => exact namedStop_irq s
  | sau => exact namedStop_sau s
  | te => exact namedStop_te h
  | reset => trivial

/-- Every step of a state of the invariant stops by name only. -/
theorem namedStop_step {s : State} (h : BlockInv s) : NamedStop s (step s) := by
  obtain ⟨e, he⟩ := takeTurn_state s
  rw [step_eq, he]
  split
  · trivial
  · exact namedStop_perform (blockInv_setEnv e h) _

/-- Settles O54: every agent's step is taken or stops by name. -/
theorem stopsAreNamed : Obligations.StopsAreNamed := by
  intro s h
  have hstep := namedStop_step h
  exact ⟨fun r hr => by rwa [hr] at hstep, fun r hr => by rwa [hr] at hstep⟩

end Sys2Proof.Proofs
end

section
/-! SUPPORT. What weakly fair runs reach (spec/00_scope.md rule R9): the handler's entry and return, and the end of a
RECORD that is storing words. Each is a chain of leads-to steps, and one leads-to step is one agent's fair turn. -/

namespace Sys2Proof.Proofs

open Sys2Proof Sys2Proof.Machine Sys2Proof.Laws

/-! ## One step of a run -/

/-- A change by one of the agents. -/
def AgentChange (s t : State) : Prop := AppChange s t ∨ IrqChange s t ∨ UnitChange s t

/-- Without a reset, a step of a run is a change by one of the agents. -/
theorem run_changes {τ : Nat → Turn} {r : Nat → State} (hr : RunsBy τ r) (hτ : ∀ k, τ k ≠ .reset) (j : Nat) :
    ∃ e, AgentChange ((r j).setEnv e) (r (j + 1)) := by
  obtain ⟨e, h | ⟨-, h⟩ | h | ⟨hreset, -⟩⟩ := step_changes (hr j)
  · exact ⟨e, .inl h⟩
  · exact ⟨e, .inr (.inl h)⟩
  · exact ⟨e, .inr (.inr h)⟩
  · exact absurd (Option.some.inj hreset) (hτ j)

/-- The interrupt's turn in a run, where it has a step: a run goes on only before a fault. -/
theorem run_irq {τ : Nat → Turn} {r : Nat → State} (hr : RunsBy τ r) {j : Nat} (hj : τ j = .irq)
    (hen : Enabled .irq (r j)) : ∃ e, IrqChange ((r j).setEnv e) (r (j + 1)) := by
  have hstep := runsBy_step hr j
  rw [hj] at hstep
  cases hf : (r j).flt.fault with
  | true =>
    have hstop := perform_irq_of_fault (s := (r j).setEnv { (r j).env with sched := [] }) hf hen
    cases hstop.symm.trans hstep
  | false =>
    obtain ⟨e, t, ht, hchange⟩ := perform_irq_of_no_fault (s := (r j).setEnv { (r j).env with sched := [] }) hf hen
    cases ht.symm.trans hstep
    exact ⟨e, hchange⟩

/-! ## A deliverable event is serviced -/

/-- A completion event is pending and enabled outside the handler. -/
def Deliverable (s : State) : Prop := s.irq.pend = true ∧ s.irq.en = true ∧ s.ch.inHandler = false

/-- No step of APP clears a pending event. -/
theorem appChange_pend {s t : State} (h : AppChange s t) : t.irq.pend = s.irq.pend := by
  cases h with
  | init hat hi => cases hi <;> rfl
  | start hat hi => cases hi <;> rfl
  | stop hat hi => cases hi <;> rfl
  | getbuf hat hi => cases hi <;> rfl
  | record hat hi => cases hi <;> rfl
  | env | command | stage | fault | store => rfl

/-- A deliverable event stays until the handler is entered. -/
theorem deliverable_kept {s t : State} (hs : Deliverable s) (h : AgentChange s t) :
    Deliverable t ∨ t.ch.inHandler = true := by
  obtain ⟨hp, he, hh⟩ := hs
  rcases h with h | h | h
  · exact .inl ⟨(appChange_pend h).trans hp, (sticky_appChange h).irqEn he, (appChange_ch h).symm ▸ hh⟩
  · cases h with
    | enter => exact .inr rfl
    | publish hf hin | retarget hf hin | misuse hf hin | ack hf hin => simp [hh] at hin
  · cases h with
    | word => exact .inl ⟨hp, he, hh⟩
    | copy => exact .inl ⟨by simp [hp], he, hh⟩

/-- The handler is entered from outside it only. -/
theorem irqChange_enters {s t : State} (hh : s.ch.inHandler = false) (h : IrqChange s t) : t.ch.inHandler = true := by
  cases h with
  | enter => rfl
  | publish hf hin | retarget hf hin | misuse hf hin | ack hf hin => simp [hh] at hin

/-- In a fair run a deliverable event is serviced (decision D22). -/
theorem eventually_entered {τ : Nat → Turn} {r : Nat → State} (hr : RunsBy τ r) (hfair : WeaklyFair τ r)
    (hτ : ∀ k, τ k ≠ .reset) {k : Nat} (hk : Deliverable (r k)) : ∃ j ≥ k, (r j).ch.inHandler = true := by
  have enabled : ∀ j, Deliverable (r j) → Enabled .irq (r j) := fun j ⟨hp, he, hh⟩ =>
    actionOf_irq_ne_idle_iff.2 (.inl ⟨hp, he, hh⟩)
  refine eventually_of_fair (t := .irq) (Q := fun s => s.ch.inHandler = true) hfair nofun enabled (fun j hj => ?keeps)
    (fun j hj hturn => ?reaches) hk
  case keeps =>
    obtain ⟨e, h⟩ := run_changes hr hτ j
    exact deliverable_kept (s := (r j).setEnv e) hj h
  case reaches =>
    obtain ⟨e, h⟩ := run_irq hr hturn (enabled j hj)
    obtain ⟨-, -, hh⟩ := hj
    exact irqChange_enters (s := (r j).setEnv e) hh h

/-! ## An entered handler returns -/

/-- In the handler, at one of its steps. -/
def InHandlerAt (p : Hpc) (s : State) : Prop := s.ch.inHandler = true ∧ s.ch.hpc = p

/-- The handler steps before any fault only. -/
theorem no_fault_of_irqChange {s t : State} (h : IrqChange s t) : s.flt.fault = false := by
  cases h <;> assumption

/-- In the handler's own step its position advances, or the retarget faults and it stays. -/
theorem irqChange_advances {s t : State} {p : Hpc} (hs : InHandlerAt p s) (h : IrqChange s t) :
    (p = .entered ∧ InHandlerAt .published t) ∨
    (p = .published ∧ (InHandlerAt .retargeted t ∨ InHandlerAt p t ∧ t.flt.fault = true)) ∨
    (p = .retargeted ∧ t.ch.inHandler = false) := by
  obtain ⟨hin, hpc⟩ := hs
  cases h with
  | enter hf hh => simp [hin] at hh
  | publish hf hh hp => exact .inl ⟨hpc.symm.trans hp, hh, rfl⟩
  | retarget hf hh hp => exact .inr (.inl ⟨hpc.symm.trans hp, .inl ⟨hh, rfl⟩⟩)
  | misuse hf hh hp => exact .inr (.inl ⟨hpc.symm.trans hp, .inr ⟨⟨hh, hpc⟩, rfl⟩⟩)
  | ack hf hh hp => exact .inr (.inr ⟨hpc.symm.trans hp, rfl⟩)

/-- Still in the handler where `u` is, and no fault of `u` is cleared. -/
structure StillAt (p : Hpc) (u s : State) : Prop where
  position : InHandlerAt p s
  fault : u.flt.fault = true → s.flt.fault = true

/-- The handler has made the step of the position `p` that it had in `u`. -/
def Advanced (p : Hpc) (u t : State) : Prop := ∃ s, StillAt p u s ∧ IrqChange s t

/-- The other agents leave the handler where it is. -/
theorem stillAt_kept {p : Hpc} {u s t : State} (hs : StillAt p u s) (h : AgentChange s t) :
    StillAt p u t ∨ Advanced p u t := by
  obtain ⟨hat, hf⟩ := hs
  rcases h with h | h | h
  · exact .inl ⟨by rwa [InHandlerAt, appChange_ch h], fun hu => (sticky_appChange h).fault (hf hu)⟩
  · exact .inr ⟨s, ⟨hat, hf⟩, h⟩
  · exact .inl ⟨by rwa [InHandlerAt, unitChange_ch h], fun hu => (sticky_unitChange h).fault (hf hu)⟩

theorem stillAt_setEnv {p : Hpc} {u s : State} (hs : StillAt p u s) (e : Env) : StillAt p u (s.setEnv e) :=
  ⟨hs.position, hs.fault⟩

section
variable {τ : Nat → Turn} {r : Nat → State} (hr : RunsBy τ r) (hfair : WeaklyFair τ r) (hτ : ∀ k, τ k ≠ .reset)
include hr hfair hτ

/-- In a fair run the handler makes its next step, whatever the other agents do; so no fault is recorded before. -/
theorem eventually_handler_steps {p : Hpc} {k : Nat} (hk : InHandlerAt p (r k)) (hp : p ≠ .idle) :
    (r k).flt.fault = false ∧ ∃ j ≥ k, ∃ s, InHandlerAt p s ∧ IrqChange s (r j) := by
  have enabled : ∀ j, StillAt p (r k) (r j) → Enabled .irq (r j) := fun j ⟨⟨hin, hpc⟩, _⟩ =>
    actionOf_irq_ne_idle_iff.2 (.inr ⟨hin, hpc ▸ hp⟩)
  have keeps : ∀ j, StillAt p (r k) (r j) → StillAt p (r k) (r (j + 1)) ∨ Advanced p (r k) (r (j + 1)) := by
    intro j hj
    obtain ⟨e, h⟩ := run_changes hr hτ j
    exact stillAt_kept (stillAt_setEnv hj e) h
  have reaches : ∀ j, StillAt p (r k) (r j) → τ j = .irq → Advanced p (r k) (r (j + 1)) := by
    intro j hj hturn
    obtain ⟨e, h⟩ := run_irq hr hturn (enabled j hj)
    exact ⟨_, stillAt_setEnv hj e, h⟩
  obtain ⟨j, hj, s, ⟨hs, hf⟩, h⟩ :=
    eventually_of_fair (t := .irq) hfair nofun enabled keeps reaches (k := k) ⟨hk, id⟩
  have hfs := no_fault_of_irqChange h
  exact ⟨by simpa [hfs] using hf, j, hj, s, hs, h⟩

theorem eventually_returns_of_retargeted {k : Nat} (hk : InHandlerAt .retargeted (r k)) :
    ∃ j ≥ k, (r j).ch.inHandler = false := by
  obtain ⟨-, j, hj, s, hs, h⟩ := eventually_handler_steps hr hfair hτ hk nofun
  obtain ⟨h, -⟩ | ⟨h, -⟩ | ⟨-, h⟩ := irqChange_advances hs h
  · cases h
  · cases h
  · exact ⟨j, hj, h⟩

/-- After the fault of a retarget on a busy engine the handler would have no step, and a fair run does not go on. -/
theorem eventually_returns_of_published {k : Nat} (hk : InHandlerAt .published (r k)) :
    ∃ j ≥ k, (r j).ch.inHandler = false := by
  obtain ⟨-, j, hj, s, hs, h⟩ := eventually_handler_steps hr hfair hτ hk nofun
  obtain ⟨h, -⟩ | ⟨-, h | ⟨h, hf⟩⟩ | ⟨h, -⟩ := irqChange_advances hs h
  · cases h
  · obtain ⟨i, hi, hout⟩ := eventually_returns_of_retargeted hr hfair hτ h
    exact ⟨i, by omega, hout⟩
  · obtain ⟨hno, -⟩ := eventually_handler_steps hr hfair hτ h nofun
    simp [hf] at hno
  · cases h

theorem eventually_returns_of_entered {k : Nat} (hk : InHandlerAt .entered (r k)) :
    ∃ j ≥ k, (r j).ch.inHandler = false := by
  obtain ⟨-, j, hj, s, hs, h⟩ := eventually_handler_steps hr hfair hτ hk nofun
  obtain ⟨-, h⟩ | ⟨h, -⟩ | ⟨h, -⟩ := irqChange_advances hs h
  · obtain ⟨i, hi, hout⟩ := eventually_returns_of_published hr hfair hτ h
    exact ⟨i, by omega, hout⟩
  · cases h
  · cases h

/-- In a fair run an entered handler returns (42 R165). -/
theorem eventually_returns {k : Nat} (hin : (r k).ch.inHandler = true) (hpc : (r k).ch.hpc ≠ .idle) :
    ∃ j ≥ k, (r j).ch.inHandler = false := by
  cases hp : (r k).ch.hpc with
  | idle => exact absurd hp hpc
  | entered => exact eventually_returns_of_entered hr hfair hτ ⟨hin, hp⟩
  | published => exact eventually_returns_of_published hr hfair hτ ⟨hin, hp⟩
  | retargeted => exact eventually_returns_of_retargeted hr hfair hτ ⟨hin, hp⟩

end

/-! ## A RECORD that is storing words ends -/

/-- The micro-step at which RECORD stands with `m` words still to store (43 R198). -/
def recordAt : Nat → Nat
  | 0 => 3
  | _ + 1 => 2

/-- RECORD, with `m` words still to store, is the only one that makes the machine move but for the SAU: the engine is
idle and no event is pending. -/
structure Recording (m : Nat) (s : State) : Prop where
  at_step : AtMicroStep .record (recordAt m) s
  left : s.cmd.recK.toNat + m = s.cfg.n.toNat
  enabled : s.sau.en = true
  depth : 1 ≤ s.par.rxqDepth
  idle : s.te.busy = false
  quiet : s.irq.pend = false

theorem recording_setEnv {m : Nat} {s : State} (h : Recording m s) (e : Env) : Recording m (s.setEnv e) :=
  ⟨h.at_step, h.left, h.enabled, h.depth, h.idle, h.quiet⟩

/-- A step of RECORD at K2: it waits for a word, or stores one. -/
theorem recording_record_step {m : Nat} {s t : State} (h : Recording (m + 1) s) (hstep : RecordStep s 2 t) :
    (t = s ∧ s.sau.rxq = []) ∨ Recording m t := by
  cases hstep with
  | rejected hk | accepted hk | restart hk | finish hk => cases hk
  | wait hk hq => exact .inl ⟨rfl, hq⟩
  | store mem hk hq hm =>
    obtain ⟨⟨hf, hh, hop, -⟩, hleft, hen, hdepth, hidle, hquiet⟩ := h
    have hk1 := toNat_add_one_of_lt (show s.cmd.recK.toNat < s.cfg.n.toNat by omega)
    refine .inr ⟨⟨hf, hh, hop, ?_⟩, ?_, hen, hdepth, hidle, hquiet⟩
    · simp only [toNat_recordNext, hk1]
      cases m with
      | zero => exact if_neg (by omega)
      | succ m => exact if_pos (by omega)
    · simp only [hk1]
      omega

/-- RECORD's last step ends it. -/
theorem op_of_record_finish {s t : State} (hstep : RecordStep s 3 t) : t.cmd.op = .none := by
  cases hstep with
  | finish => rfl
  | rejected hk | accepted hk | restart hk | wait hk | store _ hk => cases hk

/-- While RECORD is the only one to move, a step changes the environment, is RECORD's, or pushes a word. -/
theorem recording_changes {m : Nat} {s t : State} (h : Recording m s) (hchange : AgentChange s t) :
    (∃ e, t = s.setEnv e) ∨ RecordStep s (recordAt m) t ∨
    ∃ w e, t = { s with sau := flipPhase (sauPush s.par.rxqDepth w s.sau), env := e } := by
  obtain ⟨⟨hf, hh, hop, hcpc⟩, -, -, -, hidle, hquiet⟩ := h
  rcases hchange with h | h | h
  · cases h with
    | env e => exact .inl ⟨e, rfl⟩
    | command hs | stage hs | fault hs | store hs =>
      obtain ⟨-, -, hn⟩ := hs
      cases hop.symm.trans hn
    | init hat | start hat | stop hat | getbuf hat =>
      obtain ⟨-, -, hn, -⟩ := hat
      cases hop.symm.trans hn
    | record hat hstep => exact .inr (.inl (hcpc ▸ hstep))
  · cases h with
    | enter _ _ hp => simp [hquiet] at hp
    | publish _ hin | retarget _ hin | misuse _ hin | ack _ hin => simp [hh] at hin
  · cases h with
    | word _ _ w e => exact .inr (.inr ⟨w, e, rfl⟩)
    | copy _ hb => simp [hidle] at hb

/-- A push leaves the queue with a word: a queue of depth at least 1 that is full has one. -/
theorem rxq_sauPush_ne_nil {d : Nat} (hd : 1 ≤ d) (w : Word) (q : Sau) : (sauPush d w q).rxq ≠ [] := by
  unfold sauPush
  split
  · simp
  · exact List.ne_nil_of_length_pos (show 0 < q.rxq.length by omega)

/-- A push leaves RECORD where it is, with a word in the queue. -/
theorem recording_push {m : Nat} {s : State} (h : Recording m s) (w : Word) (e : Env) :
    Recording m { s with sau := flipPhase (sauPush s.par.rxqDepth w s.sau), env := e } ∧
    (flipPhase (sauPush s.par.rxqDepth w s.sau)).rxq ≠ [] :=
  ⟨⟨h.at_step, h.left, (sauPush_en _ _ _).trans h.enabled, h.depth, h.idle, h.quiet⟩, rxq_sauPush_ne_nil h.depth w _⟩

/-- RECORD goes on waiting at K2 and its queue is not emptied, or it stores a word. -/
theorem recording_kept {m : Nat} {s t : State} (h : Recording (m + 1) s) (hchange : AgentChange s t) :
    (Recording (m + 1) t ∧ (s.sau.rxq ≠ [] → t.sau.rxq ≠ [])) ∨ Recording m t := by
  obtain ⟨e, rfl⟩ | hstep | ⟨w, e, rfl⟩ := recording_changes h hchange
  · exact .inl ⟨recording_setEnv h e, id⟩
  · exact (recording_record_step h hstep).imp_left fun ⟨ht, _⟩ => ⟨ht ▸ h, ht ▸ id⟩
  · obtain ⟨ht, hq⟩ := recording_push h w e
    exact .inl ⟨ht, fun _ => hq⟩

/-- RECORD's last step stays the next one until it is taken. -/
theorem recording_last_kept {s t : State} (h : Recording 0 s) (hchange : AgentChange s t) :
    Recording 0 t ∨ t.cmd.op = .none := by
  obtain ⟨e, rfl⟩ | hstep | ⟨w, e, rfl⟩ := recording_changes h hchange
  · exact .inl (recording_setEnv h e)
  · exact .inr (op_of_record_finish hstep)
  · exact .inl (recording_push h w e).1

/-- RECORD does not wait with a word in the queue, or with no word left to store (43 R198). -/
theorem not_appWaiting_of_recording {m : Nat} {s : State} (h : Recording m s) (hq : m = 0 ∨ s.sau.rxq ≠ []) :
    appWaiting s = false := by
  obtain ⟨⟨-, -, hop, hcpc⟩, -⟩ := h
  cases m with
  | zero => simp [appWaiting, hop, hcpc, recordAt]
  | succ m => simpa [appWaiting, hop, hcpc, recordAt, dreq] using hq

/-- Then APP's step is RECORD's next micro-step: no event defers it. -/
theorem actionOf_app_of_recording {m : Nat} {s : State} (h : Recording m s) (hq : m = 0 ∨ s.sau.rxq ≠ []) :
    actionOf .app s = .micro .record := by
  have hw := not_appWaiting_of_recording h hq
  obtain ⟨⟨hf, hh, hop, -⟩, -, -, -, -, hquiet⟩ := h
  exact actionOf_app_micro hf hh (by simp [deferSpent, irqLine, hquiet]) (by simp [inProgress, hop]) hw

section
variable {τ : Nat → Turn} {r : Nat → State} (hr : RunsBy τ r)
include hr

/-- APP's turn in a run, where RECORD does not wait. -/
theorem run_record {m j : Nat} (h : Recording m (r j)) (hq : m = 0 ∨ (r j).sau.rxq ≠ []) (hturn : τ j = .app) :
    ∃ e, RecordStep ((r j).setEnv e) (recordAt m) (r (j + 1)) := by
  have hstep := runsBy_step hr j
  rw [hturn, actionOf_app_of_recording h hq, perform_micro] at hstep
  obtain ⟨-, -, hop, hcpc⟩ := h.at_step
  rcases exec_record_next hstep with ⟨⟨-, -, hn⟩, -⟩ | ⟨-, hstep⟩
  · cases hop.symm.trans hn
  · exact ⟨_, hcpc ▸ hstep⟩

variable (hfair : WeaklyFair τ r) (hτ : ∀ k, τ k ≠ .reset)
include hfair hτ

/-- In a fair run the enabled SAU delivers a word. -/
theorem eventually_word {m k : Nat} (hk : Recording (m + 1) (r k)) :
    ∃ j ≥ k, (Recording (m + 1) (r j) ∧ (r j).sau.rxq ≠ []) ∨ Recording m (r j) := by
  refine eventually_of_fair (t := .sau) (P := Recording (m + 1))
    (Q := fun s => (Recording (m + 1) s ∧ s.sau.rxq ≠ []) ∨ Recording m s) hfair nofun (fun j hj => ?enabled)
    (fun j hj => ?keeps) (fun j hj hturn => ?reaches) hk
  case enabled => simp [Enabled, actionOf_sau, hj.enabled]
  case keeps =>
    obtain ⟨e, h⟩ := run_changes hr hτ j
    exact (recording_kept (recording_setEnv hj e) h).imp And.left .inr
  case reaches =>
    have hstep := runsBy_step hr j
    rw [hturn, actionOf_sau_eq_iff.2 hj.enabled] at hstep
    obtain ⟨hf, -⟩ := hj.at_step
    obtain ⟨w, e, hw⟩ := exists_sauWord (s := (r j).setEnv { (r j).env with sched := [] }) hf
    rw [Host.Outcome.next.inj (hstep.symm.trans hw)]
    exact .inl (recording_push (recording_setEnv hj _) w e)

/-- In a fair run RECORD stores a word that is queued. -/
theorem eventually_stored {m k : Nat} (hk : Recording (m + 1) (r k)) (hq : (r k).sau.rxq ≠ []) :
    ∃ j ≥ k, Recording m (r j) := by
  refine eventually_of_fair (t := .app) (P := fun s => Recording (m + 1) s ∧ s.sau.rxq ≠ []) hfair nofun
    (fun j hj => ?enabled) (fun j hj => ?keeps) (fun j hj hturn => ?reaches) ⟨hk, hq⟩
  all_goals obtain ⟨hj, hq⟩ := hj
  case enabled => simp [Enabled, actionOf_app_of_recording hj (.inr hq)]
  case keeps =>
    obtain ⟨e, h⟩ := run_changes hr hτ j
    exact (recording_kept (recording_setEnv hj e) h).imp_left fun ⟨ht, hkeep⟩ => ⟨ht, hkeep hq⟩
  case reaches =>
    obtain ⟨e, h⟩ := run_record hr hj (.inr hq) hturn
    exact (recording_record_step (recording_setEnv hj e) h).resolve_left fun ⟨_, hnil⟩ => hq hnil

/-- In a fair run RECORD takes its last step. -/
theorem eventually_finished {k : Nat} (hk : Recording 0 (r k)) : ∃ j ≥ k, (r j).cmd.op = .none := by
  refine eventually_of_fair (t := .app) (P := Recording 0) (Q := fun s => s.cmd.op = .none) hfair nofun
    (fun j hj => ?enabled) (fun j hj => ?keeps) (fun j hj hturn => ?reaches) hk
  case enabled => simp [Enabled, actionOf_app_of_recording hj (.inl rfl)]
  case keeps =>
    obtain ⟨e, h⟩ := run_changes hr hτ j
    exact recording_last_kept (recording_setEnv hj e) h
  case reaches =>
    obtain ⟨e, h⟩ := run_record hr hj (.inl rfl) hturn
    exact op_of_record_finish h

/-- In a fair run a RECORD that is storing words ends (95 V-RC8): word by word. -/
theorem eventually_recorded (m : Nat) {k : Nat} (hk : Recording m (r k)) : ∃ j ≥ k, (r j).cmd.op = .none := by
  induction m generalizing k with
  | zero => exact eventually_finished hr hfair hτ hk
  | succ m ih =>
    have stored : ∃ j ≥ k, Recording m (r j) := by
      obtain ⟨i, hi, ⟨hrec, hq⟩ | hrec⟩ := eventually_word hr hfair hτ hk
      · obtain ⟨j, hj, h⟩ := eventually_stored hr hfair hτ hrec hq
        exact ⟨j, by omega, h⟩
      · exact ⟨i, hi, hrec⟩
    obtain ⟨j, hj, h⟩ := stored
    obtain ⟨i, hi, hend⟩ := ih h
    exact ⟨i, by omega, hend⟩

end

/-- Settles O12: the event's service, the handler's return and the end of RECORD, each as a chain of fair turns. -/
theorem fairRunsProgress : Obligations.FairRunsProgress := by
  intro τ r hr hfair hτ k
  refine ⟨fun hp he => ?entered, eventually_returns hr hfair hτ, fun hop hcpc hk hen hb hp hh hf hd => ?recorded⟩
  case entered =>
    cases hh : (r k).ch.inHandler with
    | true => exact ⟨k, le_rfl, hh⟩
    | false => exact eventually_entered hr hfair hτ ⟨hp, he, hh⟩
  case recorded =>
    obtain ⟨m, hm⟩ := Nat.exists_eq_add_of_lt hk
    exact eventually_recorded hr hfair hτ (m + 1)
      ⟨⟨hf, hh, hop, hcpc⟩, by omega, hen, hd, hb, hp⟩

end Sys2Proof.Proofs
end
